-- ==== Sys2Proof/Word.lean ====
section
/-! DEFINITION. The widths of the block's values (00_scope.md R9, 30_encoding.md R48). -/

namespace Sys2Proof

/-- A `u8` (R9): a buffer byte, a table index, an 8-bit operand. -/
abbrev Byte := BitVec 8

/-- A `u16` (R9): a table entry, the accumulator, a length, response data. `WIDTH` of R5 is 16. -/
abbrev Word := BitVec 16

/-- A command word (R48): one 32-bit number, bit 31 the most significant. -/
abbrev CommandWord := BitVec 32

end Sys2Proof
end

