-- ==== Sys2Proof/Syntax.lean ====
section
/-! DEFINITION. The eight commands (30_encoding.md R53) and the source text of a command as the assembler
syntax gives it (R58, R59). -/

namespace Sys2Proof

/-- The command set `CRC16ARC-CMD version 1`, one constructor per row of spec/opcode_table.json. Operands
are unsigned and unscaled (R52); their types admit every value the encoding admits and no other. -/
inductive Instr where
  /-- R70: build the whole table. -/
  | tbuild
  /-- R71: return the entry at `idx`. -/
  | tread (idx : Byte)
  /-- R65: return the bit-reflection of `v`. -/
  | refl8 (v : Byte)
  /-- R77: open an invocation. -/
  | crcinit
  /-- R79: feed the byte `b` to the live accumulator. -/
  | crcupd (b : Byte)
  /-- R81: close an invocation and return its checksum. -/
  | crcfin
  /-- R83: the checksum of the first `len` bytes of the buffer. -/
  | cksum (len : Word)
  /-- R91: return the status register. -/
  | stat
deriving DecidableEq, Repr

/-- An operand as it is written (R58): a number, decimal or hexadecimal, or a quoted character. A
negative number can be written and is an assembly error, so the number is an integer. -/
inductive SourceOperand where
  | number (n : Int)
  | quoted (c : Char)
deriving DecidableEq, Repr

/-- One line of source (R58): a command, one of the three aliases, or the pseudo-instruction (R59). -/
inductive SourceCommand where
  | tbuild
  | tread (o : SourceOperand)
  | refl8 (o : SourceOperand)
  | crcinit
  | crcupd (o : SourceOperand)
  | crcfin
  | cksum (o : SourceOperand)
  | stat
  /-- `INIT_TABLE`, another spelling of `TBUILD` (R59). -/
  | initTable
  /-- `CHECKSUM len`, another spelling of `CKSUM len` (R59). -/
  | checksum (o : SourceOperand)
  /-- `REFLECT v`, another spelling of `REFL8 v` (R59). -/
  | reflect (o : SourceOperand)
  /-- `CRCSTR "s"`: `CRCINIT`, one `CRCUPD` per character, `CRCFIN` (R59). -/
  | crcstr (s : List Char)
deriving DecidableEq, Repr

end Sys2Proof
end

