-- ==== Sys2Proof/Decode.lean ====
section
/-! DEFINITION. The decoder, total on 32-bit words, and the encoder (30_encoding.md R48 to R57). -/

namespace Sys2Proof

/-- Why a word spells no command (R95). The response is the same for all three (R55). -/
inductive IllegalWord where
  | undefinedOpcode
  | reservedField
  | operandBits
deriving DecidableEq, Repr

/-- `opc`, bits 31:24 (R48). -/
def opcField (w : CommandWord) : BitVec 8 := w.extractLsb' 24 8

/-- `rsv`, bits 23:16 (R48). -/
def rsvField (w : CommandWord) : BitVec 8 := w.extractLsb' 16 8

/-- `opd`, bits 15:0 (R48), and `imm16` (R52). -/
def opdField (w : CommandWord) : Word := w.extractLsb' 0 16

/-- `opd[15:8]`, the half that format B does not use (R50). -/
def opdHigh (w : CommandWord) : Byte := w.extractLsb' 8 8

/-- `imm8`, bits 7:0 (R52). -/
def imm8Field (w : CommandWord) : Byte := w.extractLsb' 0 8

/-- Format Z (R49): the operand field must be zero. -/
def decodeZ (i : Instr) (w : CommandWord) : Except IllegalWord Instr :=
  if opdField w = 0 then .ok i else .error .operandBits

/-- Format B (R50): the high operand byte must be zero. -/
def decodeB (mk : Byte → Instr) (w : CommandWord) : Except IllegalWord Instr :=
  if opdHigh w = 0 then .ok (mk (imm8Field w)) else .error .operandBits

/-- R54. The reserved field is looked at first, the last arm refuses what nobody thought of. -/
def decode (w : CommandWord) : Except IllegalWord Instr :=
  if rsvField w ≠ 0 then .error .reservedField
  else if opcField w = 0x01 then decodeZ .tbuild w
  else if opcField w = 0x02 then decodeB .tread w
  else if opcField w = 0x03 then decodeB .refl8 w
  else if opcField w = 0x04 then decodeZ .crcinit w
  else if opcField w = 0x05 then decodeB .crcupd w
  else if opcField w = 0x06 then decodeZ .crcfin w
  else if opcField w = 0x07 then .ok (.cksum (opdField w))
  else if opcField w = 0x08 then decodeZ .stat w
  else .error .undefinedOpcode

/-- The opcode of a command (R53). -/
def opcodeOf : Instr → BitVec 8
  | .tbuild => 0x01
  | .tread _ => 0x02
  | .refl8 _ => 0x03
  | .crcinit => 0x04
  | .crcupd _ => 0x05
  | .crcfin => 0x06
  | .cksum _ => 0x07
  | .stat => 0x08

/-- The operand of a command zero-extended to the 16 bits of `opd` (R54). -/
def operandOf : Instr → Word
  | .tread b | .refl8 b | .crcupd b => b.setWidth 16
  | .cksum len => len
  | .tbuild | .crcinit | .crcfin | .stat => 0

/-- R54: the opcode in bits 31:24, zero in bits 23:16, the operand in bits 15:0. -/
def encode (i : Instr) : CommandWord := opcodeOf i ++ (0 : BitVec 8) ++ operandOf i

/-- The 32-bit number that an opcode-table row's `nbits` bits stand for: bit 0 of the table is bit 0 of the
word, and every bit at and above `nbits` is 0 (assumption 15). -/
def tableWord (nbits w : Nat) : CommandWord := BitVec.ofNat 32 (w % 2 ^ nbits)

/-- What the decoder reads from an instruction whose bits are `w`, numbered as spec/opcode_table.json
numbers them. -/
def decodeTableWord (nbits w : Nat) : Option Instr := (decode (tableWord nbits w)).toOption

end Sys2Proof
end

