-- ==== Sys2Proof/Config.lean ====
section
/-! DEFINITION. The free values of the model: what the spec calls unspecified and lets no rule read
(00_scope.md R12). None has a body, so nothing can be proved of a value of one. Each is applied to the
number of the draw (`State.draws`), so that two draws need not agree.

The CRC parameters of R5 are no configuration and stand in Machine/Params.lean; `BUFSIZE` and `BUF`
(R6) are fields of State that the host's inputs set (assumption 4). -/

namespace Sys2Proof.Config

/-- What `TABLE[i]` holds after a reset input (R30, R112). DESIGN CHOICE, assumption 9; safe. -/
opaque freeEntry : Nat → Byte → Word

/-- What `CRC` holds after a reset input (R30, R112). DESIGN CHOICE, assumption 9; safe. -/
opaque freeCrc : Nat → Word

/-- What the scratch register `ACC` holds between commands (R17). DESIGN CHOICE, assumption 10; safe. -/
opaque freeAcc : Nat → Word

/-- What the scratch register `WORK` holds between commands (R17). DESIGN CHOICE, assumption 10; safe. -/
opaque freeWork : Nat → Word

/-- What the entry index `I` holds between commands (R19, R28). DESIGN CHOICE, assumption 10; safe. -/
opaque freeEntryIndex : Nat → BitVec 8

/-- What the bit-step count `K` holds between commands (R19, R28). DESIGN CHOICE, assumption 10; safe. -/
opaque freeBitCount : Nat → BitVec 3

/-- What the buffer position `POS` holds between commands (R19, R28). DESIGN CHOICE, assumption 10; safe. -/
opaque freePos : Nat → Word

end Sys2Proof.Config
end

