-- ==== Sys2Proof/Machine/State.lean ====
section
/-! DEFINITION. The state of the block and of its ports, its reset value, and the reasons a step can stop
(10_state.md R15 to R31, 60_exceptions.md R93, 70_reset_and_hazards.md R111 to R126). -/

namespace Sys2Proof.Machine

/-- The codes of a response (R93). `0x5` to `0xF` are never produced and have no name. -/
inductive RspCode where
  | ok
  | illegalCommand
  | boundsError
  | tableNotBuilt
  | accNotInit
deriving DecidableEq, Repr

/-- What the response port carries for a command (R24): `(RSP_CODE, RSP_DATA)`. -/
structure Response where
  code : RspCode
  data : Word
deriving DecidableEq, Repr

/-- What the host can do to the block (R125), each between commands and never inside one (R7, R117). -/
inductive HostInput where
  /-- Present one 32-bit word, legal or not, in any state. -/
  | command (w : CommandWord)
  /-- Apply the reset input (R111). -/
  | reset
  /-- Supply another buffer: `BUF(p)` is the `p`-th of these bytes and `BUFSIZE` their number, so that the
  block is told the true `BUFSIZE` (R60, R125; 93_implementation_defined.md U2). -/
  | supplyBuffer (bytes : List Byte)
deriving DecidableEq, Repr

/-- The lookup table (R20): 256 entries (`NENTRIES`, R5) of 16 bits. -/
abbrev Table := Vector Word 256

/-- The bytes of the BUF space by position (R35), addresses strictly rising and no listed byte equal to
what an unlisted position reads as (`Memory.wf` in Ops.lean). -/
abbrev Memory := List Host.Cell

/-- The block's state, its scratch registers, its buffer port and its command and response ports. -/
structure State where
  /-- `TABLE` (R20). -/
  table : Table
  /-- `TVALID` (R21): the table is built. -/
  tvalid : Bool
  /-- `CRC` (R16). -/
  crc : Word
  /-- `CVALID` (R22): the accumulator is live. -/
  cvalid : Bool
  /-- `ACC` (R17), scratch. -/
  acc : Word
  /-- `WORK` (R17), scratch. -/
  work : Word
  /-- `I` (R19), scratch. -/
  entryIndex : BitVec 8
  /-- `K` (R19), scratch. -/
  bitCount : BitVec 3
  /-- `POS` (R19), scratch. -/
  pos : Word
  /-- `BUFSIZE` (R6). -/
  bufSize : Nat
  /-- `BUF` (R6). -/
  buf : Memory
  /-- What the host will do next, first to come first (R7; assumption 1). -/
  hostInputs : List HostInput
  /-- The responses of the run so far, oldest first (R24, R124; assumption 2). -/
  responses : List Response
  /-- The model's own: how many times free values have been drawn (assumption 10). -/
  draws : Nat
deriving DecidableEq, Repr

/-- The reasons a step of the Lean model can stop with a fault. The block's own faults (R93) are
responses, and so next states, not these. -/
inductive Fault where
  /-- A `BufRead` at a position not below `BUFSIZE`, which the spec does not define (R35). Raised by the
  read that CKSUM makes; CKSUM's bounds check keeps every run from it. Safe (assumption 13). -/
  | bufReadOutOfRange
deriving DecidableEq, Repr

/-- The reasons a step has no meaning. -/
inductive Refusal where
  /-- Raised by an arm of `exec` whose instruction has no meaning yet. Safe: no arm is so. -/
  | notModelled (mnemonic : String)
deriving DecidableEq, Repr

/-- The block right after reset (R30). `TVALID` and `CVALID` are 0 and no response is pending, as the
spec says. TABLE and CRC (DESIGN CHOICE, assumption 6; unsafe), the scratch registers (DESIGN CHOICE,
assumption 7; unsafe) and the buffer port (DESIGN CHOICE, assumption 8; unsafe) have no value of the spec. -/
def State.reset : State where
  table := Vector.replicate 256 0
  tvalid := false
  crc := 0
  cvalid := false
  acc := 0
  work := 0
  entryIndex := 0
  bitCount := 0
  pos := 0
  bufSize := 0
  buf := []
  hostInputs := []
  responses := []
  draws := 0

end Sys2Proof.Machine
end

