-- ==== Sys2Proof/Machine/Ops.lean ====
section
/-! DEFINITION. The named operations over the state: the BUF memory, the table, the end of a command by a
response or by a fault, the reset input, the buffer supply and the host's next input. -/

namespace Sys2Proof.Machine

/-! ### The BUF memory -/

/-- What a position of BUF that is not listed reads as. The host gives every position below `BUFSIZE` a
byte (R6), so this only fixes how a byte 0 is written down. DESIGN CHOICE, assumption 5; unsafe. -/
def Memory.unlisted : Byte := 0

/-- The canonical form: positions strictly rising, and no entry equal to what an unlisted one reads as. -/
abbrev Memory.wf (m : Memory) : Prop :=
  (m.map Prod.fst).Pairwise (· < ·) ∧ ∀ c ∈ m, c.2 ≠ Memory.unlisted

/-- The byte at position `p`. -/
def Memory.read : Memory → Nat → Byte
  | [], _ => Memory.unlisted
  | c :: m, p => if c.1 = p then c.2 else Memory.read m p

/-- The memory with `v` at position `p`, in canonical form again. -/
def Memory.write : Memory → Nat → Byte → Memory
  | [], p, v => if v = Memory.unlisted then [] else [(p, v)]
  | c :: m, p, v =>
    if p < c.1 then (if v = Memory.unlisted then c :: m else (p, v) :: c :: m)
    else if p = c.1 then (if v = Memory.unlisted then m else (p, v) :: m)
    else c :: Memory.write m p v

/-- The memory that holds `bytes` from position `p` on. -/
def Memory.ofBytes (p : Nat) : List Byte → Memory
  | [] => []
  | b :: bs => Memory.write (Memory.ofBytes (p + 1) bs) p b

/-- `BufRead(p)` (R35): the byte `BUF(p)` for `0 <= p < BUFSIZE`, not defined for any other `p`. No side
effect (R40). -/
def bufRead (p : Nat) (s : State) : Option Byte :=
  if p < s.bufSize then some (s.buf.read p) else none

/-! ### The table -/

/-- The table whose entry at every index `i` is `f i`. -/
def tableOfFn (f : Byte → Word) : Table :=
  ⟨⟨(List.range 256).map fun i => f (BitVec.ofNat 8 i)⟩, by simp⟩

/-- `TABLE[i]` as a value (R33): every byte is in range. -/
def tableGet (t : Table) (i : Byte) : Word := t[i.toNat]'i.isLt

/-- `TABLE[i] <- v` (R33): entry `i` replaced, no other changed. -/
def tableSet (t : Table) (i : Byte) (v : Word) : Table := t.set i.toNat v i.isLt

/-! ### The end of a command -/

/-- What every command does at its end: its one response goes out (R93), and the scratch registers hold
unspecified values (R17, R28; assumption 10). -/
def State.endCommand (r : Response) (s : State) : State :=
  { s with
    responses := s.responses ++ [r]
    acc := Config.freeAcc s.draws
    work := Config.freeWork s.draws
    entryIndex := Config.freeEntryIndex s.draws
    bitCount := Config.freeBitCount s.draws
    pos := Config.freePos s.draws
    draws := s.draws + 1 }

/-- `respond(OK, data)` (R11). -/
def respond (data : Word) (s : State) : State := s.endCommand ⟨.ok, data⟩

/-- `raise <Fault>` (R11, R98, R101): the one way a fault is taken. The response is the code with data
`0x0000`; nothing is saved, no handler is entered, and the caller gives the state from before the command. -/
def raise (code : RspCode) (s : State) : State := s.endCommand ⟨code, 0x0000⟩

/-! ### The values of a response -/

/-- `RSP_CODE` (R93), 4 bits. -/
def rspCodeBits : RspCode → BitVec 4
  | .ok => 0x0
  | .illegalCommand => 0x1
  | .boundsError => 0x2
  | .tableNotBuilt => 0x3
  | .accNotInit => 0x4

/-- `(RSP_CODE << 16) | RSP_DATA` as one 20-bit number (R61). -/
def rspPacked (r : Response) : BitVec 20 := rspCodeBits r.code ++ r.data

/-! ### The host's inputs -/

/-- The host's next input and the state in which it has been taken, `none` when there is none. -/
def takeInput (s : State) : Option (HostInput × State) :=
  match s.hostInputs with
  | [] => none
  | x :: rest => some (x, { s with hostInputs := rest })

/-- The state with one more command presented, to be the next that is taken. -/
def presentNext (w : CommandWord) (s : State) : State :=
  { s with hostInputs := .command w :: s.hostInputs }

/-- The reset input (R112): the flags go to 0; every entry of TABLE, CRC and the scratch registers become
unspecified (R12, assumption 9); the configuration is not touched; the responses already given stay given. -/
def applyReset (s : State) : State :=
  { s with
    table := tableOfFn (Config.freeEntry s.draws)
    tvalid := false
    crc := Config.freeCrc s.draws
    cvalid := false
    acc := Config.freeAcc s.draws
    work := Config.freeWork s.draws
    entryIndex := Config.freeEntryIndex s.draws
    bitCount := Config.freeBitCount s.draws
    pos := Config.freePos s.draws
    draws := s.draws + 1 }

/-- The host's change of `BUF` and `BUFSIZE` between commands (R60, R125). -/
def supplyBuffer (bytes : List Byte) (s : State) : State :=
  { s with buf := Memory.ofBytes 0 bytes, bufSize := bytes.length }

/-- A word that spells no command (R95): decided from the word alone. -/
def illegalCommand (s : State) : Host.Outcome State Fault Refusal := .next (raise .illegalCommand s)

end Sys2Proof.Machine
end

