-- ==== Sys2Proof/Machine/Operands.lean ====
section
/-! DEFINITION. The operators of the spec's pseudocode (00_scope.md R9, R10) and the ways a command reaches
its operands (20_memory.md R34 to R36, 30_encoding.md R52). -/

namespace Sys2Proof.Machine

/-- `shl16(a, n)` (R10, C1): the `n` bits shifted out above bit 15 are discarded. -/
def shl16 (a : Word) (n : Nat) : Word := a <<< n

/-- `zext_16(v)` (R10). -/
def zext16 (v : Byte) : Word := v.setWidth 16

/-- The high byte of a word, `(w >> 8) & 0xFF` (R9). -/
def highByte (w : Word) : Byte := w.extractLsb' 8 8

/-- The low byte of a word, `w & 0xFF` (R9). -/
def lowByte (w : Word) : Byte := w.extractLsb' 0 8

/-- TABLE by the operand of the command word (R34 c). -/
def tableAtOperand (idx : Byte) (s : State) : Word := tableGet s.table idx

/-- The index `tmp` that the byte step computes from the accumulator and the reflected byte (R34 b, R78 b). -/
def tableIndex (crc : Word) (reflected : Byte) : Byte := highByte crc ^^^ reflected

end Sys2Proof.Machine
end

