-- ==== Sys2Proof/Machine/Reflect.lean ====
section
/-! DEFINITION. The bit-reflection unit and REFL8 (40_reflect.md R62 to R66). -/

namespace Sys2Proof.Machine

/-- `reflect8` (R62), written out as the rule writes it. -/
def reflect8 (v : Byte) : Byte :=
  (((v >>> 0) &&& 1) <<< 7) ||| (((v >>> 1) &&& 1) <<< 6) ||| (((v >>> 2) &&& 1) <<< 5)
    ||| (((v >>> 3) &&& 1) <<< 4) ||| (((v >>> 4) &&& 1) <<< 3) ||| (((v >>> 5) &&& 1) <<< 2)
    ||| (((v >>> 6) &&& 1) <<< 1) ||| ((v >>> 7) &&& 1)

/-- The realisation by three masked swaps (R63): nibbles, pairs of bits, single bits. -/
def reflect8Swaps (v : Byte) : Byte :=
  let v1 := ((v &&& 0xF0) >>> 4) ||| ((v &&& 0x0F) <<< 4)
  let v2 := ((v1 &&& 0xCC) >>> 2) ||| ((v1 &&& 0x33) <<< 2)
  ((v2 &&& 0xAA) >>> 1) ||| ((v2 &&& 0x55) <<< 1)

/-- `REFL8 v` (R65): completes in every state and reads none of it. -/
def execRefl8 (v : Byte) (s : State) : Host.Outcome State Fault Refusal :=
  .next (respond (zext16 (reflect8 v)) s)

end Sys2Proof.Machine
end

