-- ==== Sys2Proof/Machine/Flags.lean ====
section
/-! DEFINITION. The two flags, the status register that shows them, and the checks that guard TABLE and CRC
(10_state.md R21 to R23, 60_exceptions.md R97, R99). There are no condition codes (R22). -/

namespace Sys2Proof.Machine

/-- A flag as the bit it is. -/
def flagBit (f : Bool) : Word := if f then 1 else 0

/-- `STATUS = (CVALID << 1) | TVALID` (R23): a view of the flags, bits 15:2 zero. -/
def statusWord (s : State) : Word := flagBit s.cvalid <<< 1 ||| flagBit s.tvalid

/-- `if TVALID = 0 then raise TableNotBuilt` (R97), else go on. -/
def requireTable (s : State) (go : Host.Outcome State Fault Refusal) : Host.Outcome State Fault Refusal :=
  if s.tvalid then go else .next (raise .tableNotBuilt s)

/-- `if CVALID = 0 then raise AccNotInit` (R99), else go on. -/
def requireAccumulator (s : State) (go : Host.Outcome State Fault Refusal) :
    Host.Outcome State Fault Refusal :=
  if s.cvalid then go else .next (raise .accNotInit s)

/-- The accumulator is given a value and is live (R22). -/
def openAccumulator (v : Word) (s : State) : State := { s with crc := v, cvalid := true }

/-- The accumulator gets its next value (R79). -/
def setAccumulator (v : Word) (s : State) : State := { s with crc := v }

/-- The accumulator is live no more (R22). Its bits are not written (R81; assumption 11). -/
def closeAccumulator (s : State) : State := { s with cvalid := false }

/-- The table is given all its entries and is built (R21). -/
def installTable (t : Table) (s : State) : State := { s with table := t, tvalid := true }

end Sys2Proof.Machine
end

