-- ==== Sys2Proof/Machine/Params.lean ====
section
/-! DEFINITION. The CRC parameters, constants of the hardware (00_scope.md R5). `WIDTH` is the width of
`Word`, `NENTRIES` the length of `Table`, `REFIN` the reflection in `upd` and `REFOUT` the reflections in
`fin`. -/

namespace Sys2Proof.Machine

/-- `POLY` (R5), XORed into the builder's accumulator (R68). -/
def poly : Word := 0x8005

/-- `INIT` (R5), the accumulator at the start of a checksum. -/
def crcStart : Word := 0x0000

/-- `XOROUT` (R5), the last operation of `fin` (R80, R89). -/
def xorOut : Word := 0x0000

end Sys2Proof.Machine
end

