-- ==== Sys2Proof/Machine/TableBuilder.lean ====
section
/-! DEFINITION. The table builder, TBUILD and TREAD (41_table_builder.md R67 to R75). -/

namespace Sys2Proof.Machine

/-- `BSTEP` (R68) on the pair (builder accumulator, working value): the test is on the values from before
the step, both are shifted, the polynomial is XORed in when the tested bit 15 is 1. -/
def bstep (p : Word × Word) : Word × Word :=
  (if (p.1 ^^^ p.2).getLsbD 15 then shl16 p.1 1 ^^^ poly else shl16 p.1 1, shl16 p.2 1)

/-- `n` bit-steps one after the other. -/
def bsteps : Nat → Word × Word → Word × Word
  | 0, p => p
  | n + 1, p => bsteps n (bstep p)

/-- `ACC` and `WORK` at the start of the entry computation for `i` (R69). -/
def builderSeed (i : Byte) : Word × Word := (0x0000, shl16 (zext16 i) 8)

/-- `TENTRY(i)` (R69): exactly eight bit-steps, then the builder accumulator. -/
def tentry (i : Byte) : Word := (bsteps 8 (builderSeed i)).1

/-- What TBUILD leaves in TABLE: `TENTRY(I)` in entry `I` for `I` in 0 to 255 (R70). The order of the 256
writes cannot be observed (R73). -/
def builtTable : Table := tableOfFn tentry

/-- `TBUILD` (R70): no fault; CRC and CVALID are not touched. -/
def execTbuild (s : State) : Host.Outcome State Fault Refusal :=
  .next (respond 0x0000 (installTable builtTable s))

/-- `TREAD idx` (R71). -/
def execTread (idx : Byte) (s : State) : Host.Outcome State Fault Refusal :=
  requireTable s (.next (respond (tableAtOperand idx s) s))

/-! ### The builder in a type without truncation (R72, R118) -/

/-- A bit-step on natural numbers that keeps the bits shifted out above bit 15: the hazard of R118. No
command uses it. -/
def bstepWide (p : Nat × Nat) : Nat × Nat :=
  (if (p.1 ^^^ p.2).testBit 15 then (p.1 <<< 1) ^^^ 0x8005 else p.1 <<< 1, p.2 <<< 1)

/-- `n` bit-steps without truncation. -/
def bstepsWide : Nat → Nat × Nat → Nat × Nat
  | 0, p => p
  | n + 1, p => bstepsWide n (bstepWide p)

/-- The value that the builder would store for `i` if nothing truncated its shifts (R72, masking). -/
def tentryWide (i : Byte) : Nat := (bstepsWide 8 (0, i.toNat <<< 8)).1

/-- The one-register form of the entry (R72): one register seeded with the index in its high byte. -/
def tentryOneRegister (i : Byte) : Word :=
  (List.range 8).foldl (fun r _ => if r.getLsbD 15 then shl16 r 1 ^^^ poly else shl16 r 1) (shl16 (zext16 i) 8)

/-! ### Below the command level (R73) -/

/-- The builder between two of its bit-steps: the registers of R17 and R19, with the table it fills. -/
structure Builder where
  table : Table
  tvalid : Bool
  entryIndex : BitVec 8
  bitCount : BitVec 3
  acc : Word
  work : Word
deriving DecidableEq, Repr

/-- The builder as a TBUILD starts it on a table and flag: `I = 0`, `K = 0`, `ACC` and `WORK` seeded. -/
def builderStart (t : Table) (tvalid : Bool) : Builder where
  table := t
  tvalid := tvalid
  entryIndex := 0
  bitCount := 0
  acc := (builderSeed 0).1
  work := (builderSeed 0).2

/-- One bit-step of the split TBUILD (R19, R73). After the step for `K = 7` the entry is stored; after the
entry for `I = 255` `TVALID` is set, else the next entry is seeded. -/
def builderStep (b : Builder) : Builder :=
  let p := bstep (b.acc, b.work)
  if b.bitCount = 7 then
    let t := tableSet b.table b.entryIndex p.1
    if b.entryIndex = 255 then { b with table := t, tvalid := true, acc := p.1, work := p.2 }
    else
      { b with
        table := t
        entryIndex := b.entryIndex + 1
        bitCount := 0
        acc := (builderSeed (b.entryIndex + 1)).1
        work := (builderSeed (b.entryIndex + 1)).2 }
  else { b with bitCount := b.bitCount + 1, acc := p.1, work := p.2 }

/-- `n` bit-steps of the split TBUILD. -/
def builderSteps : Nat → Builder → Builder
  | 0, b => b
  | n + 1, b => builderSteps n (builderStep b)

end Sys2Proof.Machine
end

