-- ==== Sys2Proof/Machine/Engine.lean ====
section
/-! DEFINITION. The CRC engine: CRCINIT, CRCUPD, CRCFIN and CKSUM (42_crc_engine.md R76 to R90). -/

namespace Sys2Proof.Machine

/-- `UPD` (R78) through the table `t`: the accumulator's low byte moved up, XORed with the entry at `tmp`.
Exactly one entry is read. -/
def upd (t : Table) (crc : Word) (b : Byte) : Word :=
  (shl16 crc 8 &&& 0xFF00) ^^^ tableGet t (tableIndex crc (reflect8 b))

/-- `FIN` (R80): the reflected low byte above the reflected high byte, then the XOR with `XOROUT`. -/
def fin (crc : Word) : Word :=
  ((zext16 (reflect8 (lowByte crc)) <<< 8) + zext16 (reflect8 (highByte crc))) ^^^ xorOut

/-- `CHECKSUM` (R82) of a sequence of bytes, with the table built. -/
def checksum (bytes : List Byte) : Word := fin (bytes.foldl (upd builtTable) crcStart)

/-- `CRCINIT` (R77): completes in every state. -/
def execCrcinit (s : State) : Host.Outcome State Fault Refusal :=
  .next (respond 0x0000 (openAccumulator crcStart s))

/-- `CRCUPD b` (R79): the accumulator is checked before the table (R100). -/
def execCrcupd (b : Byte) (s : State) : Host.Outcome State Fault Refusal :=
  requireAccumulator s (requireTable s (.next (respond 0x0000 (setAccumulator (upd s.table s.crc b) s))))

/-- `CRCFIN` (R81): needs no table; CRC is not written. -/
def execCrcfin (s : State) : Host.Outcome State Fault Refusal :=
  requireAccumulator s (.next (respond (fin s.crc) (closeAccumulator s)))

/-- The loop of CKSUM (R83): the accumulator after `n` more bytes from position `pos` on, each position
read once and in ascending order (R36); `none` when a position is not below `BUFSIZE`. -/
def sumBuffer (s : State) : Nat → Nat → Word → Option Word
  | 0, _, crc => some crc
  | n + 1, pos, crc =>
    match bufRead pos s with
    | none => none
    | some b => sumBuffer s n (pos + 1) (upd s.table crc b)

/-- CKSUM once its checks have passed (R83): the fold from `0x0000`, the result, the accumulator closed. -/
def sumAndRespond (len : Word) (s : State) : Host.Outcome State Fault Refusal :=
  match sumBuffer s len.toNat 0 crcStart with
  | none => .fault .bufReadOutOfRange
  | some crc => .next (respond (fin crc) (closeAccumulator (setAccumulator crc s)))

/-- `CKSUM len` (R83): bounds before any byte is read (R96), then the table, which a length of 0 does not
need (R97, C8). -/
def execCksum (len : Word) (s : State) : Host.Outcome State Fault Refusal :=
  if s.bufSize < len.toNat then .next (raise .boundsError s)
  else if len = 0 then sumAndRespond len s
  else requireTable s (sumAndRespond len s)

/-! ### The published form (R87 b) -/

/-- One bit of the bit-at-a-time reflected form (R87 b, G1). -/
def reflectedBit (crc : Word) : Word :=
  if crc.getLsbD 0 then crc >>> 1 ^^^ 0xA001 else crc >>> 1

/-- One byte of the bit-at-a-time reflected form (R87 b). -/
def reflectedByte (crc : Word) (b : Byte) : Word :=
  (List.range 8).foldl (fun c _ => reflectedBit c) (crc ^^^ zext16 b)

/-- CRC-16/ARC in its bit-at-a-time reflected form (R87 b). A cross-check: no command uses it. -/
def checksumReflected (bytes : List Byte) : Word := bytes.foldl reflectedByte 0

end Sys2Proof.Machine
end

