-- ==== Sys2Proof/Machine/System.lean ====
section
/-! DEFINITION. The system command STAT (43_system.md R91). -/

namespace Sys2Proof.Machine

/-- `STAT` (R91): completes in every state. -/
def execStat (s : State) : Host.Outcome State Fault Refusal := .next (respond (statusWord s) s)

end Sys2Proof.Machine
end

