-- ==== Sys2Proof/Machine/Dispatch.lean ====
section
/-! DEFINITION. One arm per command (30_encoding.md R53). -/

namespace Sys2Proof.Machine

def exec (i : Instr) (s : State) : Host.Outcome State Fault Refusal :=
  match i with
  | .tbuild => Sys2Proof.Machine.execTbuild s
  | .tread idx => Sys2Proof.Machine.execTread idx s
  | .refl8 v => Sys2Proof.Machine.execRefl8 v s
  | .crcinit => Sys2Proof.Machine.execCrcinit s
  | .crcupd b => Sys2Proof.Machine.execCrcupd b s
  | .crcfin => Sys2Proof.Machine.execCrcfin s
  | .cksum len => Sys2Proof.Machine.execCksum len s
  | .stat => Sys2Proof.Machine.execStat s

end Sys2Proof.Machine
end

