-- ==== Sys2Proof/Machine/Step.lean ====
section
/-! DEFINITION. One step: the host's next input is taken and acted on whole (00_scope.md R7, R8). -/

namespace Sys2Proof.Machine

/-- One step. A command word is decoded and run, or raises IllegalCommand (R95); a reset or a buffer
change takes effect between commands (R111, R125); with nothing presented nothing changes (assumption 3). -/
def step (s : State) : Host.Outcome State Fault Refusal :=
  match takeInput s with
  | none => .next s
  | some (.reset, s') => .next (applyReset s')
  | some (.supplyBuffer bytes, s') => .next (supplyBuffer bytes s')
  | some (.command w, s') =>
    match decode w with
    | .ok i => exec i s'
    | .error _ => illegalCommand s'

/-- The state with the word of an opcode-table row presented as the very next command (assumption 1). -/
def State.withFetchWord (s : State) (nbits w : Nat) : State := presentNext (tableWord nbits w) s

end Sys2Proof.Machine
end

