-- ==== Sys2Proof/WellFormed.lean ====
section
/-! DEFINITION. What a line of source must meet to be a command (30_encoding.md R58: an operand that does
not fit the format's field is an assembly error, not a word). An `Instr` has no ill-formed term: every
`imm8` and every `imm16` is legal (R50, R51), and the types of its operands hold nothing else. -/

namespace Sys2Proof

/-- A printable ASCII character (R58, R59): codes 0x20 to 0x7E. PRESUMED, assumption 17; unsafe. -/
def printableAscii (c : Char) : Bool := 0x20 ≤ c.toNat && c.toNat ≤ 0x7E

/-- The operand fits format B (R50, R58): 0 to 255, or one printable character in quotes. -/
def SourceOperand.fitsB : SourceOperand → Bool
  | .number n => 0 ≤ n && n ≤ 255
  | .quoted c => printableAscii c

/-- The operand fits format H (R51, R58): 0 to 65535; a quoted character is for format B only. -/
def SourceOperand.fitsH : SourceOperand → Bool
  | .number n => 0 ≤ n && n ≤ 65535
  | .quoted _ => false

/-- The line is no assembly error (R58, R59). -/
def SourceCommand.wellFormed : SourceCommand → Bool
  | .tbuild | .crcinit | .crcfin | .stat | .initTable => true
  | .tread o | .refl8 o | .crcupd o | .reflect o => o.fitsB
  | .cksum o | .checksum o => o.fitsH
  | .crcstr s => s.all printableAscii

end Sys2Proof
end

