-- ==== Sys2Proof/Machine/Assembler.lean ====
section
/-! DEFINITION. The assembler syntax: from a line of characters to a source command, and from a source
command to its words (30_encoding.md R58, R59). The block never sees source text; a host's tool does. What
R58 leaves open of the text is fixed as assumption 17 says. -/

namespace Sys2Proof.Machine

/-! ### From a source command to commands -/

/-- The value of an operand that fits its field (R58): a quoted character means its code. -/
def operandValue : SourceOperand → Nat
  | .number n => n.toNat
  | .quoted c => c.toNat

/-- An operand as an `imm8`. -/
def operandByte (o : SourceOperand) : Byte := BitVec.ofNat 8 (operandValue o)

/-- An operand as an `imm16`. -/
def operandWord (o : SourceOperand) : Word := BitVec.ofNat 16 (operandValue o)

/-- The commands a line stands for (R59): one for a command or an alias, `n + 2` for `CRCSTR`. -/
def expand : SourceCommand → List Instr
  | .tbuild | .initTable => [.tbuild]
  | .tread o => [.tread (operandByte o)]
  | .refl8 o | .reflect o => [.refl8 (operandByte o)]
  | .crcinit => [.crcinit]
  | .crcupd o => [.crcupd (operandByte o)]
  | .crcfin => [.crcfin]
  | .cksum o | .checksum o => [.cksum (operandWord o)]
  | .stat => [.stat]
  | .crcstr s => .crcinit :: (s.map fun c => .crcupd (BitVec.ofNat 8 c.toNat)) ++ [.crcfin]

/-- The words a line assembles to, `none` when it is an assembly error (R58). -/
def assemble (c : SourceCommand) : Option (List CommandWord) :=
  if c.wellFormed then some ((expand c).map encode) else none

/-! ### From characters to a source command -/

/-- A character that may stand between the parts of a line: a space or a tab. DESIGN CHOICE, assumption 17. -/
def isBlank (c : Char) : Bool := c == ' ' || c == '\t'

/-- The line without the blanks at its front. -/
def skipBlanks (l : List Char) : List Char := l.dropWhile isBlank

/-- Nothing is left of the line but blanks and a comment (R58: a `;` starts a comment). -/
def lineEnds (l : List Char) : Bool :=
  match skipBlanks l with
  | [] => true
  | c :: _ => c == ';'

/-- A character of a mnemonic (R58: upper case; R53 and R59 use digits and an underscore too). -/
def isMnemonicChar (c : Char) : Bool := c.isUpper || c.isDigit || c == '_'

/-- The value of a decimal digit. -/
def decimalDigit (c : Char) : Option Nat := if c.isDigit then some (c.toNat - 48) else none

/-- The value of a hexadecimal digit. -/
def hexDigit (c : Char) : Option Nat :=
  if c.isDigit then some (c.toNat - 48)
  else if 65 ≤ c.toNat && c.toNat ≤ 70 then some (c.toNat - 55)
  else if 97 ≤ c.toNat && c.toNat ≤ 102 then some (c.toNat - 87)
  else none

/-- The digits at the front of a line read on from the value `acc`, and what follows them. -/
def readDigits (base : Nat) (digit : Char → Option Nat) (acc : Nat) : List Char → Nat × List Char
  | [] => (acc, [])
  | c :: l =>
    match digit c with
    | none => (acc, c :: l)
    | some d => readDigits base digit (acc * base + d) l

/-- A number that has at least one digit. -/
def readNumber (base : Nat) (digit : Char → Option Nat) : List Char → Option (Nat × List Char)
  | [] => none
  | c :: l => (digit c).map fun d => readDigits base digit d l

/-- An operand (R58): a quoted character, `0x` and a hexadecimal number, or a decimal number, which may be
written with a minus sign so that it can be refused. Blanks before it are skipped and none is required.
DESIGN CHOICE, assumption 17; unsafe. -/
def readOperand (l : List Char) : Option (SourceOperand × List Char) :=
  match skipBlanks l with
  | '\'' :: c :: '\'' :: rest => some (.quoted c, rest)
  | '0' :: 'x' :: rest => (readNumber 16 hexDigit rest).map fun r => (.number r.1, r.2)
  | '-' :: rest => (readNumber 10 decimalDigit rest).map fun r => (.number (-(r.1 : Int)), r.2)
  | rest => (readNumber 10 decimalDigit rest).map fun r => (.number r.1, r.2)

/-- The string of a `CRCSTR` (R59), up to the closing quote. Blanks before it are skipped and none is
required. DESIGN CHOICE, assumption 17; unsafe. -/
def readString (l : List Char) : Option (List Char × List Char) :=
  match skipBlanks l with
  | '"' :: rest =>
    match rest.span (· != '"') with
    | (s, '"' :: after) => some (s, after)
    | _ => none
  | _ => none

/-- A command that takes no operand: the line must end. -/
def parseBare (c : SourceCommand) (l : List Char) : Option SourceCommand :=
  if lineEnds l then some c else none

/-- A command that takes one operand: the line must end after it. -/
def parseWithOperand (mk : SourceOperand → SourceCommand) (l : List Char) : Option SourceCommand :=
  match readOperand l with
  | some (o, rest) => if lineEnds rest then some (mk o) else none
  | none => none

/-- The command a mnemonic and the rest of its line spell (R53, R59). -/
def parseMnemonic (m : List Char) (l : List Char) : Option SourceCommand :=
  if m = "TBUILD".toList then parseBare .tbuild l
  else if m = "TREAD".toList then parseWithOperand .tread l
  else if m = "REFL8".toList then parseWithOperand .refl8 l
  else if m = "CRCINIT".toList then parseBare .crcinit l
  else if m = "CRCUPD".toList then parseWithOperand .crcupd l
  else if m = "CRCFIN".toList then parseBare .crcfin l
  else if m = "CKSUM".toList then parseWithOperand .cksum l
  else if m = "STAT".toList then parseBare .stat l
  else if m = "INIT_TABLE".toList then parseBare .initTable l
  else if m = "CHECKSUM".toList then parseWithOperand .checksum l
  else if m = "REFLECT".toList then parseWithOperand .reflect l
  else if m = "CRCSTR".toList then
    match readString l with
    | some (s, rest) => if lineEnds rest then some (.crcstr s) else none
    | none => none
  else none

/-- The words of one line (R58): none of them for a blank or comment line, no answer for an error. The
mnemonic is the longest run of mnemonic characters. R58 is silent on the blank after it: none is required
before a quoted operand, a string, a minus sign or a comment, while a digit that follows directly reads as
part of the mnemonic, and the line is refused. DESIGN CHOICE, assumption 17; unsafe. -/
def assembleLine (l : List Char) : Option (List CommandWord) :=
  if lineEnds l then some []
  else
    match parseMnemonic ((skipBlanks l).takeWhile isMnemonicChar) ((skipBlanks l).dropWhile isMnemonicChar) with
    | some c => assemble c
    | none => none

/-- The words of a listing, one command per line (R58), in order. -/
def assembleLines (ls : List (List Char)) : Option (List CommandWord) := (ls.mapM assembleLine).map List.flatten

end Sys2Proof.Machine
end

