-- ==== Sys2Proof/Safety.lean ====
section
/-! DEFINITION. The terms that statements about the block are made of: what a step leaves as it was, the
invariants, what of a state a run can tell, and lists of commands (70_reset_and_hazards.md R123 to R126). -/

namespace Sys2Proof.Machine

/-- The four items of the architectural state (R15) are the same in both states. -/
def SameArch (s t : State) : Prop :=
  t.table = s.table ∧ t.tvalid = s.tvalid ∧ t.crc = s.crc ∧ t.cvalid = s.cvalid

/-- The buffer port and the host's inputs are the same: `BUFSIZE`, the byte at every position, the list. -/
def SamePorts (s t : State) : Prop :=
  t.bufSize = s.bufSize ∧ (∀ p, bufRead p t = bufRead p s) ∧ t.hostInputs = s.hostInputs

/-- The one response that stands between the two states. -/
def Answered (s t : State) (r : Response) : Prop := t.responses = s.responses ++ [r]

/-- The command completes: it ends in the state `t` with the response `(OK, data)` and leaves the ports. -/
def Completes (i : Instr) (s t : State) (data : Word) : Prop :=
  exec i s = .next t ∧ Answered s t ⟨.ok, data⟩ ∧ SamePorts s t

/-- The command raises the fault `code`: it ends in the state `t` with the response `(code, 0x0000)`, and
TABLE, TVALID, CRC, CVALID and the ports are exactly as before it (R98). -/
def Raises (i : Instr) (s t : State) (code : RspCode) : Prop :=
  exec i s = .next t ∧ Answered s t ⟨code, 0x0000⟩ ∧ SamePorts s t ∧ SameArch s t

/-- The table invariant (R26). -/
def TableInv (s : State) : Prop := s.tvalid = true → ∀ i, tableGet s.table i = tentry i

/-- The buffer is in the one form it has as data: canonical, and with no byte at or above `BUFSIZE`. -/
def BufferInv (s : State) : Prop := s.buf.wf ∧ ∀ c ∈ s.buf, c.1 < s.bufSize

/-- The two states agree on everything that a rule can read (R31): the flags, the table when it is built,
the accumulator when it is live, the buffer, the inputs to come and the responses given. -/
def SameReadable (s t : State) : Prop :=
  t.tvalid = s.tvalid ∧ t.cvalid = s.cvalid ∧ (s.tvalid = true → t.table = s.table) ∧
    (s.cvalid = true → t.crc = s.crc) ∧ SamePorts s t ∧ t.responses = s.responses

/-- `BUF(0), ..., BUF(n-1)` as a list. -/
def bufPrefix (n : Nat) (s : State) : List Byte := (List.range n).map s.buf.read

/-- A word that a row of the opcode map matches (R53): `(w & mask) = match`. -/
def MatchesRow (w : CommandWord) : Prop :=
  w &&& 0xFFFFFFFF = 0x01000000 ∨ w &&& 0xFFFFFF00 = 0x02000000 ∨ w &&& 0xFFFFFF00 = 0x03000000 ∨
    w &&& 0xFFFFFFFF = 0x04000000 ∨ w &&& 0xFFFFFF00 = 0x05000000 ∨ w &&& 0xFFFFFFFF = 0x06000000 ∨
    w &&& 0xFFFF0000 = 0x07000000 ∨ w &&& 0xFFFFFFFF = 0x08000000

/-- A list of commands run one after the other (R123). -/
def execAll : List Instr → State → Host.Outcome State Fault Refusal
  | [], s => .next s
  | i :: is, s =>
    match exec i s with
    | .next t => execAll is t
    | .fault r => .fault r
    | .refused r => .refused r

/-- The response that the port carries last. -/
def lastResponse (s : State) : Option Response := s.responses.getLast?

/-- The commands among the host's inputs: each gets one response, a reset or a buffer change none. -/
def commandsIn (l : List HostInput) : Nat :=
  l.countP fun x => match x with
    | .command _ => true
    | .reset | .supplyBuffer _ => false

/-- The safe run of R103: no fault recorded among its responses. -/
def FaultFree (s : State) : Prop := ∀ r ∈ s.responses, r.code = .ok

/-- `n` steps of the machine, stopping at a fault or a refusal. -/
def runFor : Nat → State → Host.Outcome State Fault Refusal
  | 0, s => .next s
  | n + 1, s =>
    match step s with
    | .next t => runFor n t
    | .fault r => .fault r
    | .refused r => .refused r

end Sys2Proof.Machine
end

