-- ==== Sys2Proof/Certificates/Slice0/Obligations.lean ====
section
/-! DEFINITION. The statements for the provers, each about every state and operand its text names. In a
statement about a state after a command nothing is said of the scratch registers, which R17 and R28 leave
unspecified, or of the draw counter, which is the model's own. -/

open Sys2Proof Sys2Proof.Machine

/-! ### Words and commands -/

/-- 95_test_vectors.md section 6, all 21 words of it: the legal ones and the illegal ones. -/
def Obligations.EncodingVectorsDecode : Prop :=
  decode 0x01000000 = .ok .tbuild ∧ decode 0x02000000 = .ok (.tread 0x00) ∧
  decode 0x020000FF = .ok (.tread 0xFF) ∧ decode 0x03000041 = .ok (.refl8 0x41) ∧
  decode 0x04000000 = .ok .crcinit ∧ decode 0x05000041 = .ok (.crcupd 0x41) ∧
  decode 0x06000000 = .ok .crcfin ∧ decode 0x07000000 = .ok (.cksum 0) ∧
  decode 0x07000009 = .ok (.cksum 9) ∧ decode 0x0700FFFF = .ok (.cksum 65535) ∧
  decode 0x08000000 = .ok .stat ∧
  (∀ i, decode 0x00000000 ≠ .ok i) ∧ (∀ i, decode 0xFFFFFFFF ≠ .ok i) ∧ (∀ i, decode 0x09000000 ≠ .ok i) ∧
  (∀ i, decode 0x01000001 ≠ .ok i) ∧ (∀ i, decode 0x08008000 ≠ .ok i) ∧ (∀ i, decode 0x03000141 ≠ .ok i) ∧
  (∀ i, decode 0x0500FF00 ≠ .ok i) ∧ (∀ i, decode 0x07010000 ≠ .ok i) ∧ (∀ i, decode 0x01800000 ≠ .ok i) ∧
  (∀ i, decode 0x02FF0001 ≠ .ok i)

/-- R54: the fields of an encoded command, and that decoding and encoding undo each other. With the last
clause they leave the decoder no choice on any word. -/
def Obligations.DecodeAndEncodeAgree : Prop :=
  (∀ i, opcField (encode i) = opcodeOf i ∧ rsvField (encode i) = 0 ∧ opdField (encode i) = operandOf i) ∧
  (∀ i, decode (encode i) = .ok i) ∧
  (∀ w i, decode w = .ok i → encode i = w)

/-- R53: the eight rows of the opcode map, each by its match and mask, with its operand, and their
disjointness. -/
def Obligations.OpcodeMapRowsByMatchAndMask : Prop :=
  (∀ w, decode w = .ok .tbuild ↔ w &&& 0xFFFFFFFF = 0x01000000) ∧
  (∀ w b, decode w = .ok (.tread b) ↔ w &&& 0xFFFFFF00 = 0x02000000 ∧ b = w.extractLsb' 0 8) ∧
  (∀ w b, decode w = .ok (.refl8 b) ↔ w &&& 0xFFFFFF00 = 0x03000000 ∧ b = w.extractLsb' 0 8) ∧
  (∀ w, decode w = .ok .crcinit ↔ w &&& 0xFFFFFFFF = 0x04000000) ∧
  (∀ w b, decode w = .ok (.crcupd b) ↔ w &&& 0xFFFFFF00 = 0x05000000 ∧ b = w.extractLsb' 0 8) ∧
  (∀ w, decode w = .ok .crcfin ↔ w &&& 0xFFFFFFFF = 0x06000000) ∧
  (∀ w l, decode w = .ok (.cksum l) ↔ w &&& 0xFFFF0000 = 0x07000000 ∧ l = w.extractLsb' 0 16) ∧
  (∀ w, decode w = .ok .stat ↔ w &&& 0xFFFFFFFF = 0x08000000)

/-- R55, the classes: the words that spell no command are exactly these five classes. -/
def Obligations.IllegalWordsAreTheFiveClasses : Prop :=
  ∀ w : CommandWord, (∀ i, decode w ≠ .ok i) ↔
    opcField w = 0x00 ∨ 0x09 ≤ (opcField w).toNat ∨
    (1 ≤ (opcField w).toNat ∧ (opcField w).toNat ≤ 8 ∧ rsvField w ≠ 0) ∨
    (opcField w ∈ [0x01#8, 0x04#8, 0x06#8, 0x08#8] ∧ rsvField w = 0 ∧ opdField w ≠ 0) ∨
    (opcField w ∈ [0x02#8, 0x03#8, 0x05#8] ∧ rsvField w = 0 ∧ opdHigh w ≠ 0)

/-- R55, the count: the legal words number 4 + 3 x 256 + 65536 = 66308. -/
def Obligations.LegalWordsNumber66308 : Prop :=
  ∃ l : List CommandWord, l.Nodup ∧ l.length = 66308 ∧ ∀ w, w ∈ l ↔ ∃ i, decode w = .ok i

/-- R7: a presented word that decodes to `i` makes the step the command `i`, run with the word taken from
the port and nothing else around it. -/
def Obligations.StepRunsTheDecodedCommand : Prop :=
  ∀ (s : State) (w : CommandWord) (rest : List HostInput) (i : Instr),
    s.hostInputs = .command w :: rest → decode w = .ok i → step s = exec i { s with hostInputs := rest }

/-- R95: a word that matches no row of the opcode map raises IllegalCommand, in every state. -/
def Obligations.IllegalWordRaisesIllegalCommand : Prop :=
  ∀ (s : State) (w : CommandWord) (rest : List HostInput),
    s.hostInputs = .command w :: rest → ¬ MatchesRow w →
    ∃ t, step s = .next t ∧ Answered s t ⟨.illegalCommand, 0x0000⟩ ∧ rspCodeBits .illegalCommand = 0x1 ∧
      SameArch s t ∧ SamePorts { s with hostInputs := rest } t

/-! ### The reflection unit -/

/-- R62: bit `k` of the reflection is bit `7-k` of the byte. -/
def Obligations.ReflectionReversesTheBits : Prop :=
  ∀ (v : Byte) (k : Nat), k < 8 → (reflect8 v).getLsbD k = v.getLsbD (7 - k)

/-- R63: the three masked swaps give the same function. -/
def Obligations.MaskedSwapsReflect : Prop := ∀ v : Byte, reflect8Swaps v = reflect8 v

/-- R64: involution, bijection, XOR-linearity, the sixteen fixed points, single bits, population. -/
def Obligations.ReflectionLaws : Prop :=
  (∀ v, reflect8 (reflect8 v) = v) ∧ Function.Bijective reflect8 ∧
  (∀ a b, reflect8 (a ^^^ b) = reflect8 a ^^^ reflect8 b) ∧ reflect8 0x00 = 0x00 ∧
  (∀ v, reflect8 v = v ↔ v ∈ [0x00#8, 0x18#8, 0x24#8, 0x3C#8, 0x42#8, 0x5A#8, 0x66#8, 0x7E#8,
    0x81#8, 0x99#8, 0xA5#8, 0xBD#8, 0xC3#8, 0xDB#8, 0xE7#8, 0xFF#8]) ∧
  (∀ k, k < 8 → reflect8 (1#8 <<< k) = 1#8 <<< (7 - k)) ∧
  (∀ v : Byte, (List.range 8).countP (reflect8 v).getLsbD = (List.range 8).countP v.getLsbD)

/-- R65: REFL8's word, its neighbours, its result in every state, its corner cases, its worked example. -/
def Obligations.Refl8ReturnsTheReflection : Prop :=
  (∀ v : Byte, encode (.refl8 v) = 0x03000000 ||| v.setWidth 32) ∧
  (∀ w i, opcField w = 0x03 → w.extractLsb' 8 16 ≠ 0 → decode w ≠ .ok i) ∧
  (∀ (v : Byte) (s : State), ∃ t, Completes (.refl8 v) s t ((reflect8 v).setWidth 16) ∧ SameArch s t) ∧
  (∀ v : Byte, highByte (zext16 (reflect8 v)) = 0) ∧
  zext16 (reflect8 0x00) = 0x0000 ∧ zext16 (reflect8 0xFF) = 0x00FF ∧ zext16 (reflect8 0x41) = 0x0082

/-! ### The table builder -/

/-- R68: one bit-step. The test is on the values from before; bit 15 of a shifted value is discarded. -/
def Obligations.BitStepRule : Prop :=
  ∀ acc work : Word,
    ((acc ^^^ work).getLsbD 15 = true → bstep (acc, work) = (shl16 acc 1 ^^^ 0x8005, shl16 work 1)) ∧
    ((acc ^^^ work).getLsbD 15 = false → bstep (acc, work) = (shl16 acc 1, shl16 work 1)) ∧
    (shl16 acc 1).toNat = acc.toNat * 2 % 65536

/-- R69: the entry is the builder accumulator after eight bit-steps from the seed; the working value is
then 0; the worked example. -/
def Obligations.EntryIsEightBitSteps : Prop :=
  (∀ i : Byte, builderSeed i = ((0x0000 : Word), i.setWidth 16 <<< 8)) ∧
  (∀ i : Byte, tentry i =
    (bstep (bstep (bstep (bstep (bstep (bstep (bstep (bstep (builderSeed i))))))))).1) ∧
  (∀ i : Byte, (bsteps 8 (builderSeed i)).2 = 0x0000) ∧ tentry 0x01 = 0x8005

/-- R72: the facts about the entries. -/
def Obligations.EntryFacts : Prop :=
  tentry 0x00 = 0x0000 ∧
  (tentry 0x01 = 0x8005 ∧ tentry 0x02 = 0x800F ∧ tentry 0x04 = 0x801B ∧ tentry 0x08 = 0x8033 ∧
    tentry 0x10 = 0x8063 ∧ tentry 0x20 = 0x80C3 ∧ tentry 0x40 = 0x8183 ∧ tentry 0x80 = 0x8303) ∧
  (∀ a b, tentry (a ^^^ b) = tentry a ^^^ tentry b) ∧
  Function.Injective tentry ∧
  (∀ i : Byte, (tentry i).getLsbD 15 = ((List.range 8).countP i.getLsbD % 2 == 1)) ∧
  (∀ i, tentryOneRegister i = tentry i) ∧
  ((List.range 256).countP (fun i => 65535 < tentryWide (BitVec.ofNat 8 i)) = 254 ∧
    tentryWide 0x80 = 0x7F8303 ∧ ∀ i, BitVec.ofNat 16 (tentryWide i) = tentry i)

/-- R74: the three whole-table checks. -/
def Obligations.WholeTableChecks : Prop :=
  ((List.range 256).map fun i => tentry (BitVec.ofNat 8 i)).foldl (· ^^^ ·) 0 = 0x0000 ∧
  ((List.range 256).map fun i => (tentry (BitVec.ofNat 8 i)).toNat).sum = 0x41FF80 ∧
  tentry 0x00 = 0x0000 ∧ tentry 0x01 = 0x8005 ∧ tentry 0xFE = 0x8207 ∧ tentry 0xFF = 0x0202

/-- R70: TBUILD's word, its neighbours, and its effect in every state: 256 entries and TVALID, nothing
else; the worked example's entries. -/
def Obligations.TbuildBuildsTheTable : Prop :=
  encode .tbuild = 0x01000000 ∧
  (∀ w i, opcField w = 0x01 → w.extractLsb' 0 24 ≠ 0 → decode w ≠ .ok i) ∧
  (∀ s : State, ∃ t, Completes .tbuild s t 0x0000 ∧ (∀ i, tableGet t.table i = tentry i) ∧
    t.tvalid = true ∧ t.crc = s.crc ∧ t.cvalid = s.cvalid) ∧
  tentry 0x00 = 0x0000 ∧ tentry 0x01 = 0x8005 ∧ tentry 0x02 = 0x800F ∧ tentry 0xFF = 0x0202

/-- R71: TREAD's word; its result with the table built and its fault without; the worked example. -/
def Obligations.TreadReturnsTheEntry : Prop :=
  (∀ idx : Byte, encode (.tread idx) = 0x02000000 ||| idx.setWidth 32) ∧
  (∀ (idx : Byte) (s : State), s.tvalid = true →
    ∃ t, Completes (.tread idx) s t (tableGet s.table idx) ∧ SameArch s t) ∧
  (∀ (idx : Byte) (s : State), s.tvalid = false → ∃ t, Raises (.tread idx) s t .tableNotBuilt) ∧
  (∀ s t : State, exec .tbuild s = .next t →
    (∃ u, Completes (.tread 0x00) t u 0x0000) ∧ ∃ u, Completes (.tread 0x82) t u 0x030C)

/-- R75: with the table built, TBUILD changes nothing that any rule can read. -/
def Obligations.RebuildChangesNothing : Prop :=
  ∀ s t : State, TableInv s → s.tvalid = true → exec .tbuild s = .next t →
    SameArch s t ∧ SameReadable s { t with responses := s.responses }

/-- R73: the builder split into bit-steps builds the same table in 2048 of them, from any table, and
keeps TVALID at its old value until the last. -/
def Obligations.SplitBuilderBuildsTheSameTable : Prop :=
  ∀ (t : Table) (v : Bool),
    (builderSteps 2048 (builderStart t v)).table = builtTable ∧
    (builderSteps 2048 (builderStart t v)).tvalid = true ∧
    ∀ n, n < 2048 → (builderSteps n (builderStart t v)).tvalid = v

/-! ### The CRC engine -/

/-- R77: CRCINIT's word, its neighbours, its effect in every state, and that a second one changes nothing. -/
def Obligations.CrcinitOpensAnInvocation : Prop :=
  encode .crcinit = 0x04000000 ∧
  (∀ w i, opcField w = 0x04 → w.extractLsb' 0 24 ≠ 0 → decode w ≠ .ok i) ∧
  (∀ s : State, ∃ t, Completes .crcinit s t 0x0000 ∧ t.crc = 0x0000 ∧ t.cvalid = true ∧
    t.table = s.table ∧ t.tvalid = s.tvalid) ∧
  (∀ s t u : State, exec .crcinit s = .next t → exec .crcinit t = .next u → SameArch t u) ∧
  (∀ t, exec .crcinit State.reset = .next t → statusWord t = 0x0002)

/-- R78: the byte update, written with the masks of the rule. -/
def Obligations.ByteUpdateRule : Prop :=
  ∀ (t : Table) (crc : Word) (b : Byte),
    upd t crc b = ((crc &&& 0xFF) <<< 8) ^^^
        tableGet t (((crc >>> 8) &&& 0xFF).setWidth 8 ^^^ reflect8 b) ∧
      (upd t crc b).toNat = ((crc.toNat <<< 8) &&& 0xFF00) ^^^
        (tableGet t (((crc >>> 8) &&& 0xFF).setWidth 8 ^^^ reflect8 b)).toNat

/-- R79: CRCUPD's word; its effect with the accumulator live and the table built; its two faults, the
accumulator's first; its corner cases; its worked example. -/
def Obligations.CrcupdFeedsOneByte : Prop :=
  (∀ b : Byte, encode (.crcupd b) = 0x05000000 ||| b.setWidth 32) ∧
  (∀ (b : Byte) (s : State), s.cvalid = true → s.tvalid = true →
    ∃ t, Completes (.crcupd b) s t 0x0000 ∧ t.crc = upd s.table s.crc b ∧ t.cvalid = true ∧
      t.tvalid = true ∧ t.table = s.table) ∧
  (∀ (b : Byte) (s : State), s.cvalid = false → ∃ t, Raises (.crcupd b) s t .accNotInit) ∧
  (∀ (b : Byte) (s : State), s.cvalid = true → s.tvalid = false → ∃ t, Raises (.crcupd b) s t .tableNotBuilt) ∧
  (∀ b : Byte, upd builtTable 0x0000 b = tentry (reflect8 b)) ∧
  upd builtTable 0x0000 0x00 = 0x0000 ∧ upd builtTable 0x0000 0x41 = 0x030C ∧
  upd builtTable 0x030C 0x42 = 0x0D86

/-- R80: the finalisation: both bytes reflected and swapped, and an addition that cannot carry. -/
def Obligations.FinalisationRule : Prop :=
  ∀ crc : Word,
    fin crc = (((reflect8 ((crc &&& 0xFF).setWidth 8)).setWidth 16 <<< 8) +
        (reflect8 (((crc >>> 8) &&& 0xFF).setWidth 8)).setWidth 16) ^^^ 0x0000 ∧
      fin crc = (zext16 (reflect8 (lowByte crc)) <<< 8) ||| zext16 (reflect8 (highByte crc)) ∧
      (fin crc).toNat = (reflect8 (lowByte crc)).toNat * 256 + (reflect8 (highByte crc)).toNat

/-- R87 (a): the finalisation is the reversal of all sixteen bits, an involution and a bijection. -/
def Obligations.FinalisationReversesSixteenBits : Prop :=
  (∀ (crc : Word) (k : Nat), k < 16 → (fin crc).getLsbD k = crc.getLsbD (15 - k)) ∧
  (∀ crc, fin (fin crc) = crc) ∧ Function.Bijective fin

/-- R87 (b): CHECKSUM is CRC-16/ARC in its bit-at-a-time reflected form, on every byte sequence. The spec
marks the reflected form "[from general knowledge, not in source]". -/
def Obligations.ChecksumIsCrc16Arc : Prop := ∀ bytes : List Byte, checksum bytes = checksumReflected bytes

/-- 42_crc_engine.md section 4: CRCFIN's word; its effect with the accumulator live, whether or not the table
is built; its fault; a second CRCFIN; the empty invocation; the worked example. That CRC keeps its bits once
CVALID is 0, the clause `t.crc = s.crc`, is the model's choice, assumption 11 (DEDUCED): R81 says that CRC is
not written, U6, N7 and D6 promise nothing of it. -/
def Obligations.CrcfinReturnsTheResult : Prop :=
  encode .crcfin = 0x06000000 ∧
  (∀ s : State, s.cvalid = true → ∃ t, Completes .crcfin s t (fin s.crc) ∧ t.cvalid = false ∧
    t.crc = s.crc ∧ t.table = s.table ∧ t.tvalid = s.tvalid) ∧
  (∀ s : State, s.cvalid = false → ∃ t, Raises .crcfin s t .accNotInit) ∧
  (∀ s t : State, s.cvalid = true → exec .crcfin s = .next t → ∃ u, Raises .crcfin t u .accNotInit) ∧
  (∀ s t : State, exec .crcinit s = .next t → ∃ u, Completes .crcfin t u 0x0000) ∧
  fin 0x030C = 0x30C0

/-- 42_crc_engine.md section 5: CKSUM's word; its effect for every length within the buffer, with the table
built or the length 0; its result against CHECKSUM; its two faults, the bounds first. That CRC then holds the
last value of the loop, the clause about `t.crc` while CVALID is 0, is the model's choice, assumption 11
(DEDUCED): the loop of R83 writes it, U6, N7 and D6 promise nothing of it. -/
def Obligations.CksumSumsThePrefix : Prop :=
  (∀ len : Word, encode (.cksum len) = 0x07000000 ||| len.setWidth 32) ∧
  (∀ (len : Word) (s : State), len.toNat ≤ s.bufSize → (len = 0 ∨ s.tvalid = true) →
    ∃ t, Completes (.cksum len) s t (fin ((bufPrefix len.toNat s).foldl (upd s.table) 0x0000)) ∧
      t.crc = (bufPrefix len.toNat s).foldl (upd s.table) 0x0000 ∧ t.cvalid = false ∧
      t.table = s.table ∧ t.tvalid = s.tvalid) ∧
  (∀ (len : Word) (s : State), TableInv s → len.toNat ≤ s.bufSize → (len = 0 ∨ s.tvalid = true) →
    fin ((bufPrefix len.toNat s).foldl (upd s.table) 0x0000) = checksum (bufPrefix len.toNat s)) ∧
  (∀ (len : Word) (s : State), s.bufSize < len.toNat → ∃ t, Raises (.cksum len) s t .boundsError) ∧
  (∀ (len : Word) (s : State), len.toNat ≤ s.bufSize → len ≠ 0 → s.tvalid = false →
    ∃ t, Raises (.cksum len) s t .tableNotBuilt) ∧
  checksum [0x31, 0x32, 0x33, 0x34, 0x35, 0x36, 0x37, 0x38, 0x39] = 0xBB3D

/-- R85: the empty checksum, in every state. -/
def Obligations.EmptyChecksumIsZero : Prop :=
  checksum [] = 0x0000 ∧ ∀ s : State, ∃ t, Completes (.cksum 0) s t 0x0000

/-- R86: CKSUM's result is a function of the first `len` bytes alone: two states, however different
otherwise, whose buffers agree there give it alike. -/
def Obligations.CksumDependsOnThePrefixOnly : Prop :=
  ∀ (len : Word) (s s' : State), TableInv s → TableInv s' → s.tvalid = true → s'.tvalid = true →
    len.toNat ≤ s.bufSize → len.toNat ≤ s'.bufSize →
    (∀ p, p < len.toNat → bufRead p s = bufRead p s') →
    ∃ t t', Completes (.cksum len) s t (checksum (bufPrefix len.toNat s)) ∧
      Completes (.cksum len) s' t' (checksum (bufPrefix len.toNat s))

/-- R84: CKSUM against CRCINIT, a CRCUPD per byte and CRCFIN: the same last response and the same state
when the table is built; where they differ when it is not. -/
def Obligations.CksumEqualsItsParts : Prop :=
  (∀ (len : Word) (s : State), s.tvalid = true → len.toNat ≤ s.bufSize →
    ∃ t u, exec (.cksum len) s = .next t ∧
      execAll (.crcinit :: (bufPrefix len.toNat s).map .crcupd ++ [.crcfin]) s = .next u ∧
      lastResponse t = lastResponse u ∧ u.responses.length = s.responses.length + len.toNat + 2 ∧
      t.cvalid = false ∧ u.cvalid = false ∧ t.table = s.table ∧ u.table = s.table ∧
      t.tvalid = s.tvalid ∧ u.tvalid = s.tvalid) ∧
  (∀ (len : Word) (s : State) (b : Byte), s.tvalid = false → len.toNat ≤ s.bufSize → 1 ≤ len.toNat →
    (∃ t, Raises (.cksum len) s t .tableNotBuilt) ∧
    ∃ u v, Completes .crcinit s u 0x0000 ∧ u.cvalid = true ∧ Raises (.crcupd b) u v .tableNotBuilt)

/-- R88: the update is XOR-linear in the pair, the finalisation is, and so is the checksum of byte strings
of one length. -/
def Obligations.ChecksumIsXorLinear : Prop :=
  (∀ (crc crc' : Word) (b b' : Byte), upd builtTable (crc ^^^ crc') (b ^^^ b') =
    upd builtTable crc b ^^^ upd builtTable crc' b') ∧
  (∀ x y, fin (x ^^^ y) = fin x ^^^ fin y) ∧
  (∀ xs ys : List Byte, xs.length = ys.length →
    checksum (List.zipWith (· ^^^ ·) xs ys) = checksum xs ^^^ checksum ys)

/-! ### The status register -/

/-- R91: STAT's word and its result in every state; the worked example's run of flags. -/
def Obligations.StatReturnsTheStatus : Prop :=
  encode .stat = 0x08000000 ∧
  (∀ s : State, ∃ t, Completes .stat s t ((flagBit s.cvalid <<< 1) ||| flagBit s.tvalid) ∧ SameArch s t) ∧
  (∀ s : State, statusWord s = match s.cvalid, s.tvalid with
    | false, false => 0x0000 | false, true => 0x0001 | true, false => 0x0002 | true, true => 0x0003) ∧
  (∀ t u v, exec .tbuild State.reset = .next t → exec .crcinit t = .next u → exec .crcfin u = .next v →
    statusWord State.reset = 0x0000 ∧ statusWord t = 0x0001 ∧ statusWord u = 0x0003 ∧ statusWord v = 0x0001)

/-! ### Faults -/

/-- R94: which command ends with which code, in every state; a word that spells no command always with
IllegalCommand. The last clause is the numbers of the five codes (R93, the column RSP_CODE). -/
def Obligations.FaultMatrix : Prop :=
  (∀ (i : Instr) (s : State), ∃ t d, exec i s = .next t ∧ Answered s t ⟨
    (match i with
    | .tbuild | .refl8 _ | .crcinit | .stat => .ok
    | .tread _ => if s.tvalid then .ok else .tableNotBuilt
    | .crcupd _ => if s.cvalid then (if s.tvalid then .ok else .tableNotBuilt) else .accNotInit
    | .crcfin => if s.cvalid then .ok else .accNotInit
    | .cksum len =>
      if s.bufSize < len.toNat then .boundsError
      else if 1 ≤ len.toNat ∧ s.tvalid = false then .tableNotBuilt else .ok), d⟩) ∧
  (∀ (s : State) (w : CommandWord) (rest : List HostInput), s.hostInputs = .command w :: rest →
    (∀ i, decode w ≠ .ok i) → ∃ t, step s = .next t ∧ Answered s t ⟨.illegalCommand, 0x0000⟩) ∧
  (rspCodeBits .ok = 0x0 ∧ rspCodeBits .illegalCommand = 0x1 ∧ rspCodeBits .boundsError = 0x2 ∧
    rspCodeBits .tableNotBuilt = 0x3 ∧ rspCodeBits .accNotInit = 0x4)

/-- R100: where two conditions hold together, the bounds come before the table and the accumulator before
the table; an illegal word reports nothing else. -/
def Obligations.FaultPriority : Prop :=
  (∀ (len : Word) (s : State), s.bufSize < len.toNat → s.tvalid = false →
    ∃ t, Raises (.cksum len) s t .boundsError) ∧
  (∀ (b : Byte) (s : State), s.cvalid = false → s.tvalid = false →
    ∃ t, Raises (.crcupd b) s t .accNotInit) ∧
  (∀ (i : Instr) (s t : State) (r : Response), exec i s = .next t → Answered s t r →
    r.code ≠ .illegalCommand)

/-- R98: a command that raises a fault, whatever its word, leaves TABLE, TVALID, CRC, CVALID and the buffer
exactly as they were, and its response data is 0x0000. -/
def Obligations.FaultsChangeNothing : Prop :=
  ∀ (s t : State) (w : CommandWord) (rest : List HostInput) (r : Response),
    s.hostInputs = .command w :: rest → step s = .next t → Answered s t r → r.code ≠ .ok →
    r.data = 0x0000 ∧ SameArch s t ∧ SamePorts { s with hostInputs := rest } t

/-- R102, R103: a command presented after one that faulted responds, and leaves the block, as if the
faulting one had not been presented; the faulting command itself faults again with the same code. The second
clause says so of steps on presented words, of which both may be illegal (R95). -/
def Obligations.FaultsLeaveNoTrace : Prop :=
  (∀ (i j : Instr) (s t : State) (r : Response), exec i s = .next t → Answered s t r → r.code ≠ .ok →
    ∃ u v q, exec j s = .next u ∧ exec j t = .next v ∧ Answered s u q ∧ Answered t v q ∧
      SameArch u v ∧ SamePorts u v ∧ (i = j → q = r)) ∧
  (∀ (s t : State) (w w' : CommandWord) (rest : List HostInput) (r : Response),
    s.hostInputs = .command w :: .command w' :: rest → step s = .next t → Answered s t r → r.code ≠ .ok →
    ∃ u v q, step { s with hostInputs := .command w' :: rest } = .next u ∧ step t = .next v ∧
      Answered s u q ∧ Answered t v q ∧ SameArch u v ∧ SamePorts u v ∧ (w = w' → q = r))

/-! ### Frames and invariants -/

/-- R27, the writes: which command may change which item; BUF, BUFSIZE and the inputs are changed by none.
That CRCFIN leaves CRC, after which CVALID is 0, is the model's choice, assumption 11 (DEDUCED). -/
def Obligations.OnlyTheseCommandsWrite : Prop :=
  ∀ (i : Instr) (s t : State), exec i s = .next t →
    SamePorts s t ∧
    (i ≠ .tbuild → t.table = s.table ∧ t.tvalid = s.tvalid) ∧
    (i ≠ .crcinit → (∀ b, i ≠ .crcupd b) → (∀ len, i ≠ .cksum len) → t.crc = s.crc) ∧
    (i ≠ .crcinit → i ≠ .crcfin → (∀ len, i ≠ .cksum len) → t.cvalid = s.cvalid)

/-- R7, R8, R93: a step on any presented word gives exactly one response and takes exactly that word, in
every state; a fault's data is 0x0000. -/
def Obligations.EveryWordGetsOneResponse : Prop :=
  ∀ (s : State) (w : CommandWord) (rest : List HostInput), s.hostInputs = .command w :: rest →
    ∃ t r, step s = .next t ∧ Answered s t r ∧ t.hostInputs = rest ∧ (r.code ≠ .ok → r.data = 0x0000)

/-- R122, R123: from every state, whatever the host presents, the block acts on all of it without stopping;
the run has one response per command word. That the responses already given stay through a reset input is
the model's choice, assumption 2 (DESIGN CHOICE). -/
def Obligations.RunsRespondToEveryCommand : Prop :=
  ∀ s : State, ∃ t, runFor s.hostInputs.length s = .next t ∧ t.hostInputs = [] ∧
    ∃ rs, t.responses = s.responses ++ rs ∧ rs.length = commandsIn s.hostInputs

/-- R26: every step keeps the table invariant, whatever the host presents, resets included. -/
def Obligations.StepKeepsTableInvariant : Prop :=
  ∀ s t : State, TableInv s → step s = .next t → TableInv t

/-- R26: the table invariant holds at reset. -/
def Obligations.ResetMeetsTableInvariant : Prop := TableInv State.reset

/-- R26: whatever the host presents, in every state that a run from reset reaches TVALID = 1 implies that
every entry is `TENTRY` of its index. -/
def Obligations.ReachableTablesAreBuiltRight : Prop :=
  ∀ (l : List HostInput) (n : Nat) (t : State), runFor n { State.reset with hostInputs := l } = .next t →
    t.tvalid = true → ∀ i, tableGet t.table i = tentry i

/-- The model's own form of the buffer (assumption 5): every step keeps it. -/
def Obligations.StepKeepsBufferCanonical : Prop :=
  ∀ s t : State, BufferInv s → step s = .next t → BufferInv t

/-- The model's own form of the buffer (assumptions 5 and 8) holds at reset. -/
def Obligations.ResetBufferIsCanonical : Prop := BufferInv State.reset

/-- R20, R21: TVALID is cleared only by reset; once it is 1 no step but a reset changes any entry. -/
def Obligations.BuiltTableStaysUntilReset : Prop :=
  ∀ s t : State, TableInv s → s.tvalid = true → (∀ rest, s.hostInputs ≠ .reset :: rest) → step s = .next t →
    t.tvalid = true ∧ ∀ i, tableGet t.table i = tableGet s.table i

/-- R31, R124: no rule reads an unspecified value: two states that agree on what can be read give the same
responses for ever and go on agreeing, whatever TABLE, CRC and the scratch registers hold else. -/
def Obligations.UnspecifiedValuesAreNeverRead : Prop :=
  ∀ (n : Nat) (s s' : State), SameReadable s s' →
    ∃ t t', runFor n s = .next t ∧ runFor n s' = .next t' ∧ SameReadable t t'

/-! ### Reset, the buffer, hazards -/

/-- R30: what reset leaves, of the values the spec gives. -/
def Obligations.ResetValues : Prop :=
  State.reset.tvalid = false ∧ State.reset.cvalid = false ∧ statusWord State.reset = 0x0000 ∧
  State.reset.responses = []

/-- R112: the reset input between commands clears both flags, leaves the configuration, gives no response
and enters nothing, in every state. -/
def Obligations.ResetInputClearsTheFlags : Prop :=
  ∀ (s : State) (rest : List HostInput), s.hostInputs = .reset :: rest →
    ∃ t, step s = .next t ∧ t.tvalid = false ∧ t.cvalid = false ∧ statusWord t = 0x0000 ∧
      SamePorts { s with hostInputs := rest } t ∧ t.responses = s.responses

/-- R35, R60: after the host supplies a buffer, `BufRead(p)` is its `p`-th byte for every `p` below its
length and is not defined for any other; the block is left as it was. -/
def Obligations.SuppliedBufferIsRead : Prop :=
  ∀ (s : State) (bytes : List Byte) (rest : List HostInput), s.hostInputs = .supplyBuffer bytes :: rest →
    ∃ t, step s = .next t ∧ t.bufSize = bytes.length ∧ (∀ p, bufRead p t = bytes[p]?) ∧ SameArch s t ∧
      t.hostInputs = rest ∧ t.responses = s.responses

/-- R116: CRCINIT restarts an open invocation, a completed CKSUM ends it, and TBUILD, TREAD, REFL8 and STAT
do not disturb it. -/
def Obligations.OneInvocationAtATime : Prop :=
  (∀ s t : State, exec .crcinit s = .next t → t.crc = 0x0000 ∧ t.cvalid = true) ∧
  (∀ (len : Word) (s t : State) (d : Word), Completes (.cksum len) s t d →
    t.cvalid = false ∧ (∀ b, ∃ u, Raises (.crcupd b) t u .accNotInit) ∧ ∃ u, Raises .crcfin t u .accNotInit) ∧
  (∀ (i : Instr) (s t : State), (i = .tbuild ∨ (∃ idx, i = .tread idx) ∨ (∃ v, i = .refl8 v) ∨ i = .stat) →
    exec i s = .next t → t.crc = s.crc ∧ t.cvalid = s.cvalid)

/-! ### The assembler -/

/-- R58: an operand that does not fit its field is an error, one that fits gives one word with the operand
in its field; a quoted character is for format B only and means its code. Which characters are printable is
the model's choice, assumption 17 (PRESUMED). -/
def Obligations.OperandsMustFit : Prop :=
  (∀ n : Int, assemble (.tread (.number n)) = if 0 ≤ n ∧ n ≤ 255 then
    some [0x02000000 ||| BitVec.ofNat 32 n.toNat] else none) ∧
  (∀ n : Int, assemble (.refl8 (.number n)) = if 0 ≤ n ∧ n ≤ 255 then
    some [0x03000000 ||| BitVec.ofNat 32 n.toNat] else none) ∧
  (∀ n : Int, assemble (.crcupd (.number n)) = if 0 ≤ n ∧ n ≤ 255 then
    some [0x05000000 ||| BitVec.ofNat 32 n.toNat] else none) ∧
  (∀ n : Int, assemble (.cksum (.number n)) = if 0 ≤ n ∧ n ≤ 65535 then
    some [0x07000000 ||| BitVec.ofNat 32 n.toNat] else none) ∧
  (∀ c, assemble (.tread (.quoted c)) = if printableAscii c then
    some [0x02000000 ||| BitVec.ofNat 32 c.toNat] else none) ∧
  (∀ c, assemble (.refl8 (.quoted c)) = if printableAscii c then
    some [0x03000000 ||| BitVec.ofNat 32 c.toNat] else none) ∧
  (∀ c, assemble (.crcupd (.quoted c)) = if printableAscii c then
    some [0x05000000 ||| BitVec.ofNat 32 c.toNat] else none) ∧
  (∀ c, assemble (.cksum (.quoted c)) = none)

/-- R59: the aliases assemble as what they stand for; CRCSTR gives its `n + 2` words, and run on a built table
its last response is that of CKSUM `n` on a buffer that holds the string. Which characters are printable is
the model's choice, assumption 17 (PRESUMED). -/
def Obligations.AliasesAndCrcstr : Prop :=
  assemble .initTable = assemble .tbuild ∧
  (∀ o, assemble (.checksum o) = assemble (.cksum o)) ∧
  (∀ o, assemble (.reflect o) = assemble (.refl8 o)) ∧
  (∀ s : List Char, (∀ c ∈ s, printableAscii c = true) →
    assemble (.crcstr s) =
      some (0x04000000 :: s.map (fun c => 0x05000000 ||| BitVec.ofNat 32 c.toNat) ++ [0x06000000])) ∧
  (∀ (str : List Char) (s : State), str.length ≤ 65535 → s.tvalid = true → str.length ≤ s.bufSize →
    bufPrefix str.length s = str.map (fun c => BitVec.ofNat 8 c.toNat) →
    ∃ t u, execAll (expand (.crcstr str)) s = .next t ∧
      exec (.cksum (BitVec.ofNat 16 str.length)) s = .next u ∧ lastResponse t = lastResponse u)
end

