-- ==== Sys2Proof/Laws/Memory.lean ====
section
/-! SUPPORT. The laws of the BUF memory: a read after a write, and that every operation keeps the
canonical form. -/

namespace Sys2Proof.Machine

/-- What the canonical form says of a list with a first cell. -/
theorem Memory.wf_cons {c : Host.Cell} {m : List Host.Cell} :
    Memory.wf (c :: m) ↔ (∀ d ∈ m, c.1 < d.1) ∧ c.2 ≠ Memory.unlisted ∧ Memory.wf m := by
  simp only [Memory.wf, List.map_cons, List.pairwise_cons, List.mem_map, List.mem_cons, forall_exists_index,
    and_imp, forall_apply_eq_imp_iff₂, forall_eq_or_imp]
  tauto

/-- A position below every listed one reads as an unlisted one does. -/
theorem Memory.read_of_below {m : List Host.Cell} {p : Nat} (h : ∀ d ∈ m, p < d.1) :
    Memory.read m p = Memory.unlisted := by
  induction m with
  | nil => rfl
  | cons d m ih =>
    have := h d (List.mem_cons_self ..)
    rw [Memory.read, if_neg (by omega)]
    exact ih fun e he => h e (List.mem_cons_of_mem _ he)

/-- A write is read at its position and leaves every other position as it reads. -/
theorem Memory.read_write {m : List Host.Cell} (hm : Memory.wf m) (p q : Nat) (v : Byte) :
    Memory.read (Memory.write m p v) q = if q = p then v else Memory.read m q := by
  induction m with
  | nil =>
    by_cases hv : v = Memory.unlisted <;> by_cases hq : p = q <;>
      simp [Memory.write, Memory.read, hv, hq, eq_comm (a := q)]
  | cons c m ih =>
    obtain ⟨hlt, hz, hm⟩ := Memory.wf_cons.1 hm
    rw [Memory.write]
    by_cases h1 : p < c.1
    · have below : ∀ d ∈ c :: m, p < d.1 := by
        intro d hd
        rcases List.mem_cons.1 hd with rfl | hd
        · exact h1
        · exact h1.trans (hlt d hd)
      rw [if_pos h1]
      by_cases hv : v = Memory.unlisted <;> by_cases hq : q = p
      · rw [if_pos hv, if_pos hq, hq, Memory.read_of_below below, hv]
      · rw [if_pos hv, if_neg hq]
      · rw [if_neg hv, if_pos hq, Memory.read, if_pos hq.symm]
      · rw [if_neg hv, if_neg hq, Memory.read, if_neg (Ne.symm hq)]
    · rw [if_neg h1]
      by_cases h2 : p = c.1
      · rw [if_pos h2]
        by_cases hv : v = Memory.unlisted <;> by_cases hq : q = p
        · rw [if_pos hv, if_pos hq, hq, h2, Memory.read_of_below hlt, hv]
        · rw [if_pos hv, if_neg hq]
          conv_rhs => rw [Memory.read, if_neg (by omega)]
        · rw [if_neg hv, if_pos hq, Memory.read, if_pos hq.symm]
        · rw [if_neg hv, if_neg hq, Memory.read, if_neg (Ne.symm hq)]
          conv_rhs => rw [Memory.read, if_neg (by omega)]
      · rw [if_neg h2, Memory.read, ih hm, Memory.read]
        by_cases hq : q = p
        · simp [hq, Ne.symm h2]
        · simp [hq]

/-- What a write can list: the written position and the ones listed before. -/
theorem Memory.mem_write {m : List Host.Cell} {p : Nat} {v : Byte} {c : Host.Cell}
    (h : c ∈ Memory.write m p v) : c = (p, v) ∨ c ∈ m := by
  induction m with
  | nil => rw [Memory.write] at h; split_ifs at h <;> simp_all
  | cons d m ih =>
    rw [Memory.write] at h
    split_ifs at h
    · exact .inr h
    · exact List.mem_cons.1 h
    · exact .inr (List.mem_cons_of_mem _ h)
    · exact (List.mem_cons.1 h).imp id (List.mem_cons_of_mem _)
    · rcases List.mem_cons.1 h with rfl | h
      · exact .inr (List.mem_cons_self ..)
      · exact (ih h).imp id (List.mem_cons_of_mem _)

/-- A write keeps the canonical form. -/
theorem Memory.write_wf {m : List Host.Cell} (hm : Memory.wf m) (p : Nat) (v : Byte) :
    Memory.wf (Memory.write m p v) := by
  induction m with
  | nil => rw [Memory.write]; split_ifs with h <;> simp [Memory.wf, h]
  | cons c m ih =>
    have hcm := hm
    obtain ⟨hlt, hz, hm⟩ := Memory.wf_cons.1 hm
    rw [Memory.write]
    by_cases hv : v = Memory.unlisted
    · simp only [hv, ↓reduceIte]
      split_ifs with h1 h2
      · exact hcm
      · exact hm
      · refine Memory.wf_cons.2 ⟨fun d hd => ?_, hz, hv ▸ ih hm⟩
        rcases Memory.mem_write hd with rfl | hd
        · show c.1 < p; omega
        · exact hlt d hd
    · simp only [hv, ↓reduceIte]
      split_ifs with h1 h2
      · refine Memory.wf_cons.2 ⟨fun d hd => ?_, hv, hcm⟩
        rcases List.mem_cons.1 hd with rfl | hd
        · exact h1
        · exact h1.trans (hlt d hd)
      · exact Memory.wf_cons.2 ⟨fun d hd => h2 ▸ hlt d hd, hv, hm⟩
      · refine Memory.wf_cons.2 ⟨fun d hd => ?_, hz, ih hm⟩
        rcases Memory.mem_write hd with rfl | hd
        · show c.1 < p; omega
        · exact hlt d hd

/-- The buffer that the host supplies is in canonical form. -/
theorem Memory.ofBytes_wf (p : Nat) (bs : List Byte) : Memory.wf (Memory.ofBytes p bs) := by
  induction bs generalizing p with
  | nil => simp [Memory.ofBytes, Memory.wf]
  | cons b bs ih => exact Memory.write_wf (ih (p + 1)) p b

/-- It lists no position outside the bytes it was made of. -/
theorem Memory.ofBytes_bounds (p : Nat) (bs : List Byte) {c : Host.Cell} (h : c ∈ Memory.ofBytes p bs) :
    p ≤ c.1 ∧ c.1 < p + bs.length := by
  induction bs generalizing p with
  | nil => simp [Memory.ofBytes] at h
  | cons b bs ih =>
    rcases Memory.mem_write h with rfl | h
    · simp
    · have := ih (p + 1) h
      simp only [List.length_cons]; omega

end Sys2Proof.Machine
end

