-- ==== Sys2Proof/Laws/State.lean ====
section
/-! SUPPORT. What each update of the state leaves in each field, one lemma per field and update. -/

namespace Sys2Proof.Machine

/-! ### endCommand -/

@[simp] theorem endCommand_table (r : Response) (s : State) : (s.endCommand r).table = s.table := rfl
@[simp] theorem endCommand_tvalid (r : Response) (s : State) : (s.endCommand r).tvalid = s.tvalid := rfl
@[simp] theorem endCommand_crc (r : Response) (s : State) : (s.endCommand r).crc = s.crc := rfl
@[simp] theorem endCommand_cvalid (r : Response) (s : State) : (s.endCommand r).cvalid = s.cvalid := rfl
@[simp] theorem endCommand_acc (r : Response) (s : State) : (s.endCommand r).acc = Config.freeAcc s.draws := rfl
@[simp] theorem endCommand_work (r : Response) (s : State) : (s.endCommand r).work = Config.freeWork s.draws := rfl
@[simp] theorem endCommand_entryIndex (r : Response) (s : State) : (s.endCommand r).entryIndex = Config.freeEntryIndex s.draws := rfl
@[simp] theorem endCommand_bitCount (r : Response) (s : State) : (s.endCommand r).bitCount = Config.freeBitCount s.draws := rfl
@[simp] theorem endCommand_pos (r : Response) (s : State) : (s.endCommand r).pos = Config.freePos s.draws := rfl
@[simp] theorem endCommand_bufSize (r : Response) (s : State) : (s.endCommand r).bufSize = s.bufSize := rfl
@[simp] theorem endCommand_buf (r : Response) (s : State) : (s.endCommand r).buf = s.buf := rfl
@[simp] theorem endCommand_hostInputs (r : Response) (s : State) : (s.endCommand r).hostInputs = s.hostInputs := rfl
@[simp] theorem endCommand_responses (r : Response) (s : State) : (s.endCommand r).responses = s.responses ++ [r] := rfl
@[simp] theorem endCommand_draws (r : Response) (s : State) : (s.endCommand r).draws = s.draws + 1 := rfl

/-! ### respond -/

@[simp] theorem respond_table (d : Word) (s : State) : (respond d s).table = s.table := rfl
@[simp] theorem respond_tvalid (d : Word) (s : State) : (respond d s).tvalid = s.tvalid := rfl
@[simp] theorem respond_crc (d : Word) (s : State) : (respond d s).crc = s.crc := rfl
@[simp] theorem respond_cvalid (d : Word) (s : State) : (respond d s).cvalid = s.cvalid := rfl
@[simp] theorem respond_acc (d : Word) (s : State) : (respond d s).acc = Config.freeAcc s.draws := rfl
@[simp] theorem respond_work (d : Word) (s : State) : (respond d s).work = Config.freeWork s.draws := rfl
@[simp] theorem respond_entryIndex (d : Word) (s : State) : (respond d s).entryIndex = Config.freeEntryIndex s.draws := rfl
@[simp] theorem respond_bitCount (d : Word) (s : State) : (respond d s).bitCount = Config.freeBitCount s.draws := rfl
@[simp] theorem respond_pos (d : Word) (s : State) : (respond d s).pos = Config.freePos s.draws := rfl
@[simp] theorem respond_bufSize (d : Word) (s : State) : (respond d s).bufSize = s.bufSize := rfl
@[simp] theorem respond_buf (d : Word) (s : State) : (respond d s).buf = s.buf := rfl
@[simp] theorem respond_hostInputs (d : Word) (s : State) : (respond d s).hostInputs = s.hostInputs := rfl
@[simp] theorem respond_responses (d : Word) (s : State) : (respond d s).responses = s.responses ++ [⟨.ok, d⟩] := rfl
@[simp] theorem respond_draws (d : Word) (s : State) : (respond d s).draws = s.draws + 1 := rfl

/-! ### raise -/

@[simp] theorem raise_table (c : RspCode) (s : State) : (raise c s).table = s.table := rfl
@[simp] theorem raise_tvalid (c : RspCode) (s : State) : (raise c s).tvalid = s.tvalid := rfl
@[simp] theorem raise_crc (c : RspCode) (s : State) : (raise c s).crc = s.crc := rfl
@[simp] theorem raise_cvalid (c : RspCode) (s : State) : (raise c s).cvalid = s.cvalid := rfl
@[simp] theorem raise_acc (c : RspCode) (s : State) : (raise c s).acc = Config.freeAcc s.draws := rfl
@[simp] theorem raise_work (c : RspCode) (s : State) : (raise c s).work = Config.freeWork s.draws := rfl
@[simp] theorem raise_entryIndex (c : RspCode) (s : State) : (raise c s).entryIndex = Config.freeEntryIndex s.draws := rfl
@[simp] theorem raise_bitCount (c : RspCode) (s : State) : (raise c s).bitCount = Config.freeBitCount s.draws := rfl
@[simp] theorem raise_pos (c : RspCode) (s : State) : (raise c s).pos = Config.freePos s.draws := rfl
@[simp] theorem raise_bufSize (c : RspCode) (s : State) : (raise c s).bufSize = s.bufSize := rfl
@[simp] theorem raise_buf (c : RspCode) (s : State) : (raise c s).buf = s.buf := rfl
@[simp] theorem raise_hostInputs (c : RspCode) (s : State) : (raise c s).hostInputs = s.hostInputs := rfl
@[simp] theorem raise_responses (c : RspCode) (s : State) : (raise c s).responses = s.responses ++ [⟨c, 0⟩] := rfl
@[simp] theorem raise_draws (c : RspCode) (s : State) : (raise c s).draws = s.draws + 1 := rfl

/-! ### presentNext -/

@[simp] theorem presentNext_table (w : CommandWord) (s : State) : (presentNext w s).table = s.table := rfl
@[simp] theorem presentNext_tvalid (w : CommandWord) (s : State) : (presentNext w s).tvalid = s.tvalid := rfl
@[simp] theorem presentNext_crc (w : CommandWord) (s : State) : (presentNext w s).crc = s.crc := rfl
@[simp] theorem presentNext_cvalid (w : CommandWord) (s : State) : (presentNext w s).cvalid = s.cvalid := rfl
@[simp] theorem presentNext_acc (w : CommandWord) (s : State) : (presentNext w s).acc = s.acc := rfl
@[simp] theorem presentNext_work (w : CommandWord) (s : State) : (presentNext w s).work = s.work := rfl
@[simp] theorem presentNext_entryIndex (w : CommandWord) (s : State) : (presentNext w s).entryIndex = s.entryIndex := rfl
@[simp] theorem presentNext_bitCount (w : CommandWord) (s : State) : (presentNext w s).bitCount = s.bitCount := rfl
@[simp] theorem presentNext_pos (w : CommandWord) (s : State) : (presentNext w s).pos = s.pos := rfl
@[simp] theorem presentNext_bufSize (w : CommandWord) (s : State) : (presentNext w s).bufSize = s.bufSize := rfl
@[simp] theorem presentNext_buf (w : CommandWord) (s : State) : (presentNext w s).buf = s.buf := rfl
@[simp] theorem presentNext_hostInputs (w : CommandWord) (s : State) : (presentNext w s).hostInputs = .command w :: s.hostInputs := rfl
@[simp] theorem presentNext_responses (w : CommandWord) (s : State) : (presentNext w s).responses = s.responses := rfl
@[simp] theorem presentNext_draws (w : CommandWord) (s : State) : (presentNext w s).draws = s.draws := rfl

/-! ### applyReset -/

@[simp] theorem applyReset_table (s : State) : (applyReset s).table = tableOfFn (Config.freeEntry s.draws) := rfl
@[simp] theorem applyReset_tvalid (s : State) : (applyReset s).tvalid = false := rfl
@[simp] theorem applyReset_crc (s : State) : (applyReset s).crc = Config.freeCrc s.draws := rfl
@[simp] theorem applyReset_cvalid (s : State) : (applyReset s).cvalid = false := rfl
@[simp] theorem applyReset_acc (s : State) : (applyReset s).acc = Config.freeAcc s.draws := rfl
@[simp] theorem applyReset_work (s : State) : (applyReset s).work = Config.freeWork s.draws := rfl
@[simp] theorem applyReset_entryIndex (s : State) : (applyReset s).entryIndex = Config.freeEntryIndex s.draws := rfl
@[simp] theorem applyReset_bitCount (s : State) : (applyReset s).bitCount = Config.freeBitCount s.draws := rfl
@[simp] theorem applyReset_pos (s : State) : (applyReset s).pos = Config.freePos s.draws := rfl
@[simp] theorem applyReset_bufSize (s : State) : (applyReset s).bufSize = s.bufSize := rfl
@[simp] theorem applyReset_buf (s : State) : (applyReset s).buf = s.buf := rfl
@[simp] theorem applyReset_hostInputs (s : State) : (applyReset s).hostInputs = s.hostInputs := rfl
@[simp] theorem applyReset_responses (s : State) : (applyReset s).responses = s.responses := rfl
@[simp] theorem applyReset_draws (s : State) : (applyReset s).draws = s.draws + 1 := rfl

/-! ### supplyBuffer -/

@[simp] theorem supplyBuffer_table (bs : List Byte) (s : State) : (supplyBuffer bs s).table = s.table := rfl
@[simp] theorem supplyBuffer_tvalid (bs : List Byte) (s : State) : (supplyBuffer bs s).tvalid = s.tvalid := rfl
@[simp] theorem supplyBuffer_crc (bs : List Byte) (s : State) : (supplyBuffer bs s).crc = s.crc := rfl
@[simp] theorem supplyBuffer_cvalid (bs : List Byte) (s : State) : (supplyBuffer bs s).cvalid = s.cvalid := rfl
@[simp] theorem supplyBuffer_acc (bs : List Byte) (s : State) : (supplyBuffer bs s).acc = s.acc := rfl
@[simp] theorem supplyBuffer_work (bs : List Byte) (s : State) : (supplyBuffer bs s).work = s.work := rfl
@[simp] theorem supplyBuffer_entryIndex (bs : List Byte) (s : State) : (supplyBuffer bs s).entryIndex = s.entryIndex := rfl
@[simp] theorem supplyBuffer_bitCount (bs : List Byte) (s : State) : (supplyBuffer bs s).bitCount = s.bitCount := rfl
@[simp] theorem supplyBuffer_pos (bs : List Byte) (s : State) : (supplyBuffer bs s).pos = s.pos := rfl
@[simp] theorem supplyBuffer_bufSize (bs : List Byte) (s : State) : (supplyBuffer bs s).bufSize = bs.length := rfl
@[simp] theorem supplyBuffer_buf (bs : List Byte) (s : State) : (supplyBuffer bs s).buf = Memory.ofBytes 0 bs := rfl
@[simp] theorem supplyBuffer_hostInputs (bs : List Byte) (s : State) : (supplyBuffer bs s).hostInputs = s.hostInputs := rfl
@[simp] theorem supplyBuffer_responses (bs : List Byte) (s : State) : (supplyBuffer bs s).responses = s.responses := rfl
@[simp] theorem supplyBuffer_draws (bs : List Byte) (s : State) : (supplyBuffer bs s).draws = s.draws := rfl

/-! ### openAccumulator -/

@[simp] theorem openAccumulator_table (v : Word) (s : State) : (openAccumulator v s).table = s.table := rfl
@[simp] theorem openAccumulator_tvalid (v : Word) (s : State) : (openAccumulator v s).tvalid = s.tvalid := rfl
@[simp] theorem openAccumulator_crc (v : Word) (s : State) : (openAccumulator v s).crc = v := rfl
@[simp] theorem openAccumulator_cvalid (v : Word) (s : State) : (openAccumulator v s).cvalid = true := rfl
@[simp] theorem openAccumulator_acc (v : Word) (s : State) : (openAccumulator v s).acc = s.acc := rfl
@[simp] theorem openAccumulator_work (v : Word) (s : State) : (openAccumulator v s).work = s.work := rfl
@[simp] theorem openAccumulator_entryIndex (v : Word) (s : State) : (openAccumulator v s).entryIndex = s.entryIndex := rfl
@[simp] theorem openAccumulator_bitCount (v : Word) (s : State) : (openAccumulator v s).bitCount = s.bitCount := rfl
@[simp] theorem openAccumulator_pos (v : Word) (s : State) : (openAccumulator v s).pos = s.pos := rfl
@[simp] theorem openAccumulator_bufSize (v : Word) (s : State) : (openAccumulator v s).bufSize = s.bufSize := rfl
@[simp] theorem openAccumulator_buf (v : Word) (s : State) : (openAccumulator v s).buf = s.buf := rfl
@[simp] theorem openAccumulator_hostInputs (v : Word) (s : State) : (openAccumulator v s).hostInputs = s.hostInputs := rfl
@[simp] theorem openAccumulator_responses (v : Word) (s : State) : (openAccumulator v s).responses = s.responses := rfl
@[simp] theorem openAccumulator_draws (v : Word) (s : State) : (openAccumulator v s).draws = s.draws := rfl

/-! ### setAccumulator -/

@[simp] theorem setAccumulator_table (v : Word) (s : State) : (setAccumulator v s).table = s.table := rfl
@[simp] theorem setAccumulator_tvalid (v : Word) (s : State) : (setAccumulator v s).tvalid = s.tvalid := rfl
@[simp] theorem setAccumulator_crc (v : Word) (s : State) : (setAccumulator v s).crc = v := rfl
@[simp] theorem setAccumulator_cvalid (v : Word) (s : State) : (setAccumulator v s).cvalid = s.cvalid := rfl
@[simp] theorem setAccumulator_acc (v : Word) (s : State) : (setAccumulator v s).acc = s.acc := rfl
@[simp] theorem setAccumulator_work (v : Word) (s : State) : (setAccumulator v s).work = s.work := rfl
@[simp] theorem setAccumulator_entryIndex (v : Word) (s : State) : (setAccumulator v s).entryIndex = s.entryIndex := rfl
@[simp] theorem setAccumulator_bitCount (v : Word) (s : State) : (setAccumulator v s).bitCount = s.bitCount := rfl
@[simp] theorem setAccumulator_pos (v : Word) (s : State) : (setAccumulator v s).pos = s.pos := rfl
@[simp] theorem setAccumulator_bufSize (v : Word) (s : State) : (setAccumulator v s).bufSize = s.bufSize := rfl
@[simp] theorem setAccumulator_buf (v : Word) (s : State) : (setAccumulator v s).buf = s.buf := rfl
@[simp] theorem setAccumulator_hostInputs (v : Word) (s : State) : (setAccumulator v s).hostInputs = s.hostInputs := rfl
@[simp] theorem setAccumulator_responses (v : Word) (s : State) : (setAccumulator v s).responses = s.responses := rfl
@[simp] theorem setAccumulator_draws (v : Word) (s : State) : (setAccumulator v s).draws = s.draws := rfl

/-! ### closeAccumulator -/

@[simp] theorem closeAccumulator_table (s : State) : (closeAccumulator s).table = s.table := rfl
@[simp] theorem closeAccumulator_tvalid (s : State) : (closeAccumulator s).tvalid = s.tvalid := rfl
@[simp] theorem closeAccumulator_crc (s : State) : (closeAccumulator s).crc = s.crc := rfl
@[simp] theorem closeAccumulator_cvalid (s : State) : (closeAccumulator s).cvalid = false := rfl
@[simp] theorem closeAccumulator_acc (s : State) : (closeAccumulator s).acc = s.acc := rfl
@[simp] theorem closeAccumulator_work (s : State) : (closeAccumulator s).work = s.work := rfl
@[simp] theorem closeAccumulator_entryIndex (s : State) : (closeAccumulator s).entryIndex = s.entryIndex := rfl
@[simp] theorem closeAccumulator_bitCount (s : State) : (closeAccumulator s).bitCount = s.bitCount := rfl
@[simp] theorem closeAccumulator_pos (s : State) : (closeAccumulator s).pos = s.pos := rfl
@[simp] theorem closeAccumulator_bufSize (s : State) : (closeAccumulator s).bufSize = s.bufSize := rfl
@[simp] theorem closeAccumulator_buf (s : State) : (closeAccumulator s).buf = s.buf := rfl
@[simp] theorem closeAccumulator_hostInputs (s : State) : (closeAccumulator s).hostInputs = s.hostInputs := rfl
@[simp] theorem closeAccumulator_responses (s : State) : (closeAccumulator s).responses = s.responses := rfl
@[simp] theorem closeAccumulator_draws (s : State) : (closeAccumulator s).draws = s.draws := rfl

/-! ### installTable -/

@[simp] theorem installTable_table (t : Table) (s : State) : (installTable t s).table = t := rfl
@[simp] theorem installTable_tvalid (t : Table) (s : State) : (installTable t s).tvalid = true := rfl
@[simp] theorem installTable_crc (t : Table) (s : State) : (installTable t s).crc = s.crc := rfl
@[simp] theorem installTable_cvalid (t : Table) (s : State) : (installTable t s).cvalid = s.cvalid := rfl
@[simp] theorem installTable_acc (t : Table) (s : State) : (installTable t s).acc = s.acc := rfl
@[simp] theorem installTable_work (t : Table) (s : State) : (installTable t s).work = s.work := rfl
@[simp] theorem installTable_entryIndex (t : Table) (s : State) : (installTable t s).entryIndex = s.entryIndex := rfl
@[simp] theorem installTable_bitCount (t : Table) (s : State) : (installTable t s).bitCount = s.bitCount := rfl
@[simp] theorem installTable_pos (t : Table) (s : State) : (installTable t s).pos = s.pos := rfl
@[simp] theorem installTable_bufSize (t : Table) (s : State) : (installTable t s).bufSize = s.bufSize := rfl
@[simp] theorem installTable_buf (t : Table) (s : State) : (installTable t s).buf = s.buf := rfl
@[simp] theorem installTable_hostInputs (t : Table) (s : State) : (installTable t s).hostInputs = s.hostInputs := rfl
@[simp] theorem installTable_responses (t : Table) (s : State) : (installTable t s).responses = s.responses := rfl
@[simp] theorem installTable_draws (t : Table) (s : State) : (installTable t s).draws = s.draws := rfl

end Sys2Proof.Machine
end

