-- ==== Sys2Proof/Laws/Ops.lean ====
section
/-! SUPPORT. One lemma per shared operation that says once what it can do: proofs cite these and do not
unfold the operation. -/

namespace Sys2Proof.Machine

/-! ### The table -/

/-- Reading the table made of `f` gives `f`. -/
@[simp] theorem tableGet_tableOfFn (f : Byte → Word) (i : Byte) : tableGet (tableOfFn f) i = f i := by
  simp [tableGet, tableOfFn]

/-- A built table holds `TENTRY` at every index. -/
@[simp] theorem tableGet_builtTable (i : Byte) : tableGet builtTable i = tentry i := tableGet_tableOfFn _ _

/-- Two tables that read alike at every index are one table. -/
theorem table_ext {t u : Table} (h : ∀ i, tableGet t i = tableGet u i) : t = u := by
  apply Vector.ext
  intro i hi
  have := h (BitVec.ofNat 8 i)
  simpa [tableGet, Nat.mod_eq_of_lt hi] using this

/-- A write of the table is read at its index and nowhere else. -/
theorem tableGet_tableSet (t : Table) (i j : Byte) (v : Word) :
    tableGet (tableSet t i v) j = if j = i then v else tableGet t j := by
  by_cases h : j = i
  · simp [h, tableGet, tableSet]
  · have : i.toNat ≠ j.toNat := fun e => h (BitVec.eq_of_toNat_eq e.symm)
    simp [h, tableGet, tableSet, this]

/-! ### The guards -/

/-- The table guard: the command goes on with a built table, or TableNotBuilt is raised. -/
theorem requireTable_of_built {s : State} (h : s.tvalid = true) (go) : requireTable s go = go := by
  simp [requireTable, h]

theorem requireTable_of_unbuilt {s : State} (h : s.tvalid = false) (go) :
    requireTable s go = .next (raise .tableNotBuilt s) := by
  simp [requireTable, h]

/-- The accumulator guard: the command goes on with a live accumulator, or AccNotInit is raised. -/
theorem requireAccumulator_of_live {s : State} (h : s.cvalid = true) (go) : requireAccumulator s go = go := by
  simp [requireAccumulator, h]

theorem requireAccumulator_of_not_live {s : State} (h : s.cvalid = false) (go) :
    requireAccumulator s go = .next (raise .accNotInit s) := by
  simp [requireAccumulator, h]

/-! ### The buffer -/

/-- A read below `BUFSIZE` gives the byte there. -/
theorem bufRead_of_lt {s : State} {p : Nat} (h : p < s.bufSize) : bufRead p s = some (s.buf.read p) := by
  simp [bufRead, h]

/-- A read at or above `BUFSIZE` gives nothing. -/
theorem bufRead_of_ge {s : State} {p : Nat} (h : s.bufSize ≤ p) : bufRead p s = none := by
  simp [bufRead, Nat.not_lt.2 h]

/-- The loop of CKSUM over positions that exist is the fold of `upd` over their bytes. -/
theorem sumBuffer_eq_foldl (s : State) (n pos : Nat) (crc : Word) (h : pos + n ≤ s.bufSize) :
    sumBuffer s n pos crc = some (((List.range' pos n).map s.buf.read).foldl (upd s.table) crc) := by
  induction n generalizing pos crc with
  | zero => rfl
  | succ n ih =>
    rw [sumBuffer, bufRead_of_lt (by omega)]
    simpa [List.range'_succ] using ih (pos + 1) (upd s.table crc (s.buf.read pos)) (by omega)

/-- CKSUM once its checks have passed: the whole effect. -/
theorem sumAndRespond_eq {s : State} {len : Word} (h : len.toNat ≤ s.bufSize) :
    sumAndRespond len s =
      .next (respond (fin (((List.range len.toNat).map s.buf.read).foldl (upd s.table) crcStart))
        (closeAccumulator
          (setAccumulator (((List.range len.toNat).map s.buf.read).foldl (upd s.table) crcStart) s))) := by
  rw [sumAndRespond, sumBuffer_eq_foldl s _ 0 _ (by omega), List.range_eq_range']

/-! ### The step -/

/-- What a step is, by the host's next input. -/
theorem step_of_no_input {s : State} (h : s.hostInputs = []) : step s = .next s := by
  simp [step, takeInput, h]

theorem step_of_reset {s : State} {rest : List HostInput} (h : s.hostInputs = .reset :: rest) :
    step s = .next (applyReset { s with hostInputs := rest }) := by
  simp [step, takeInput, h]

theorem step_of_supplyBuffer {s : State} {bytes : List Byte} {rest : List HostInput}
    (h : s.hostInputs = .supplyBuffer bytes :: rest) :
    step s = .next (supplyBuffer bytes { s with hostInputs := rest }) := by
  simp [step, takeInput, h]

theorem step_of_command {s : State} {w : CommandWord} {rest : List HostInput}
    (h : s.hostInputs = .command w :: rest) :
    step s = match decode w with
      | .ok i => exec i { s with hostInputs := rest }
      | .error _ => .next (raise .illegalCommand { s with hostInputs := rest }) := by
  simp only [step, takeInput, h]
  cases decode w <;> rfl

end Sys2Proof.Machine
end

