-- ==== Sys2Proof/Laws/PerInstr.lean ====
section
/-! SUPPORT. Statements for all commands, one lemma per constructor of `Instr`. -/

namespace Sys2Proof.Laws.EncodedFields

/-- The three fields of a command's word (30_encoding.md R54): its opcode, the reserved zero, its operand. -/
def Statement (i : Instr) : Prop :=
  opcField (encode i) = opcodeOf i ∧ rsvField (encode i) = 0 ∧ opdField (encode i) = operandOf i

/-- One bit of a word put together from its three parts. -/
theorem getLsbD_of_append (o r : BitVec 8) (d : Word) (k : Nat) :
    BitVec.getLsbD (w := 32) (o ++ r ++ d) k =
      if k < 16 then d.getLsbD k else if k - 16 < 8 then r.getLsbD (k - 16) else o.getLsbD (k - 16 - 8) :=
  (BitVec.getLsbD_append (x := o ++ r) (y := d) (i := k)).trans
    (by rw [BitVec.getLsbD_append])

/-- The fields of a word put together from its three parts. -/
theorem fields_of_append (o r : BitVec 8) (d : Word) :
    opcField (o ++ r ++ d) = o ∧ rsvField (o ++ r ++ d) = r ∧ opdField (o ++ r ++ d) = d := by
  refine ⟨?_, ?_, ?_⟩ <;> apply BitVec.eq_of_getLsbD_eq <;> intro k hk
  · rw [opcField, BitVec.getLsbD_extractLsb', getLsbD_of_append, if_neg (by omega), if_neg (by omega)]
    simp [hk, show 24 + k - 16 - 8 = k by omega]
  · rw [rsvField, BitVec.getLsbD_extractLsb', getLsbD_of_append, if_neg (by omega), if_pos (by omega)]
    simp [hk]
  · rw [opdField, BitVec.getLsbD_extractLsb', getLsbD_of_append, if_pos (by omega)]
    simp [hk]

theorem tbuild : Statement .tbuild := fields_of_append ..
theorem tread (idx : Byte) : Statement (.tread idx) := fields_of_append ..
theorem refl8 (v : Byte) : Statement (.refl8 v) := fields_of_append ..
theorem crcinit : Statement .crcinit := fields_of_append ..
theorem crcupd (b : Byte) : Statement (.crcupd b) := fields_of_append ..
theorem crcfin : Statement .crcfin := fields_of_append ..
theorem cksum (len : Word) : Statement (.cksum len) := fields_of_append ..
theorem stat : Statement .stat := fields_of_append ..

end Sys2Proof.Laws.EncodedFields
end

