-- ==== Sys2Proof/Tests/Slice0.lean ====
section
/-! SUPPORT. The model's own tests. Every expected value is the spec's: 95_test_vectors.md, the worked
examples of the rules, or a word written out from 30_encoding.md. -/

namespace Sys2Proof.Tests

open Sys2Proof Sys2Proof.Machine

set_option maxRecDepth 8192

/-! ### Small states -/

/-- The block with the given flags and accumulator, its table built when `tvalid` is, the given buffer at
its port and the given inputs to come. -/
def block (tvalid cvalid : Bool) (crc : Word) (bytes : List Byte) (inputs : List HostInput) : State :=
  { State.reset with
    table := if tvalid then builtTable else State.reset.table
    tvalid := tvalid
    cvalid := cvalid
    crc := crc
    bufSize := bytes.length
    buf := Memory.ofBytes 0 bytes
    hostInputs := inputs }

/-- The ASCII bytes of `123456789`. -/
def digits : List Byte := [0x31, 0x32, 0x33, 0x34, 0x35, 0x36, 0x37, 0x38, 0x39]

/-- What a command shows and leaves: its responses, TVALID, CVALID, CRC. -/
def shows (o : Host.Outcome State Fault Refusal) : Option (List Response × Bool × Bool × Word) :=
  match o with
  | .next t => some (t.responses, t.tvalid, t.cvalid, t.crc)
  | .fault _ | .refused _ => none

/-! ### WellFormed: an ill-formed term for each check (R58, R59) -/

theorem test_wellFormed_byte_too_large : (SourceCommand.tread (.number 256)).wellFormed = false := by decide
theorem test_wellFormed_byte_negative : (SourceCommand.crcupd (.number (-1))).wellFormed = false := by decide
theorem test_wellFormed_quoted_not_printable :
    (SourceCommand.refl8 (.quoted '\n')).wellFormed = false := by decide
theorem test_wellFormed_length_too_large : (SourceCommand.cksum (.number 65536)).wellFormed = false := by decide
theorem test_wellFormed_length_quoted : (SourceCommand.cksum (.quoted 'A')).wellFormed = false := by decide
theorem test_wellFormed_string_not_printable :
    (SourceCommand.crcstr ['1', '\t']).wellFormed = false := by decide
theorem test_wellFormed_bounds : (SourceCommand.tread (.number 255)).wellFormed = true ∧
    (SourceCommand.checksum (.number 65535)).wellFormed = true ∧
    (SourceCommand.crcstr ['1', '2']).wellFormed = true := by decide

/-! ### Decoding: words written out bit by bit from R49 to R53 -/

theorem test_decode_tbuild : decode 0b00000001_00000000_0000000000000000 = .ok .tbuild := by decide
theorem test_decode_tread : decode 0b00000010_00000000_00000000_10000010 = .ok (.tread 0x82) := by decide
theorem test_decode_refl8 : decode 0b00000011_00000000_00000000_01000001 = .ok (.refl8 0x41) := by decide
theorem test_decode_crcinit : decode 0b00000100_00000000_0000000000000000 = .ok .crcinit := by decide
theorem test_decode_crcupd : decode 0b00000101_00000000_00000000_11111110 = .ok (.crcupd 0xFE) := by decide
theorem test_decode_crcfin : decode 0b00000110_00000000_0000000000000000 = .ok .crcfin := by decide
theorem test_decode_cksum : decode 0b00000111_00000000_1000000000001001 = .ok (.cksum 0x8009) := by decide
theorem test_decode_stat : decode 0b00001000_00000000_0000000000000000 = .ok .stat := by decide

/-- 95_test_vectors.md section 6: a word refused for each of the reasons of R95. -/
theorem test_decode_refused : decode 0x00000000 = .error .undefinedOpcode ∧
    decode 0x09000000 = .error .undefinedOpcode ∧ decode 0x08008000 = .error .operandBits ∧
    decode 0x0500FF00 = .error .operandBits ∧ decode 0x02FF0001 = .error .reservedField ∧
    decode 0x07010000 = .error .reservedField := by decide

/-- The examples of R58. -/
theorem test_encode_examples : encode .tbuild = 0x01000000 ∧ encode (.tread 0x82) = 0x02000082 ∧
    encode (.refl8 1) = 0x03000001 ∧ encode (.crcupd 0x41) = 0x05000041 ∧
    encode (.cksum 9) = 0x07000009 ∧ encode .stat = 0x08000000 := by decide

theorem test_decodeTableWord : decodeTableWord 32 0x020000FF = some (.tread 0xFF) ∧
    decodeTableWord 32 0x01000001 = none := by decide

/-- A word of the opcode table, presented, is what the next step runs. -/
theorem test_withFetchWord : shows (step (State.reset.withFetchWord 32 0x03000041)) =
    some ([⟨.ok, 0x0082⟩], false, false, 0) := by decide

/-! ### The spec's tables -/

/-- 95_test_vectors.md section 2, indices 0 to 63. -/
def specReflection0 : List Byte := [
  0x00, 0x80, 0x40, 0xC0, 0x20, 0xA0, 0x60, 0xE0, 0x10, 0x90, 0x50, 0xD0, 0x30, 0xB0, 0x70, 0xF0,
  0x08, 0x88, 0x48, 0xC8, 0x28, 0xA8, 0x68, 0xE8, 0x18, 0x98, 0x58, 0xD8, 0x38, 0xB8, 0x78, 0xF8,
  0x04, 0x84, 0x44, 0xC4, 0x24, 0xA4, 0x64, 0xE4, 0x14, 0x94, 0x54, 0xD4, 0x34, 0xB4, 0x74, 0xF4,
  0x0C, 0x8C, 0x4C, 0xCC, 0x2C, 0xAC, 0x6C, 0xEC, 0x1C, 0x9C, 0x5C, 0xDC, 0x3C, 0xBC, 0x7C, 0xFC]

/-- 95_test_vectors.md section 2, indices 64 to 127. -/
def specReflection1 : List Byte := [
  0x02, 0x82, 0x42, 0xC2, 0x22, 0xA2, 0x62, 0xE2, 0x12, 0x92, 0x52, 0xD2, 0x32, 0xB2, 0x72, 0xF2,
  0x0A, 0x8A, 0x4A, 0xCA, 0x2A, 0xAA, 0x6A, 0xEA, 0x1A, 0x9A, 0x5A, 0xDA, 0x3A, 0xBA, 0x7A, 0xFA,
  0x06, 0x86, 0x46, 0xC6, 0x26, 0xA6, 0x66, 0xE6, 0x16, 0x96, 0x56, 0xD6, 0x36, 0xB6, 0x76, 0xF6,
  0x0E, 0x8E, 0x4E, 0xCE, 0x2E, 0xAE, 0x6E, 0xEE, 0x1E, 0x9E, 0x5E, 0xDE, 0x3E, 0xBE, 0x7E, 0xFE]

/-- 95_test_vectors.md section 2, indices 128 to 191. -/
def specReflection2 : List Byte := [
  0x01, 0x81, 0x41, 0xC1, 0x21, 0xA1, 0x61, 0xE1, 0x11, 0x91, 0x51, 0xD1, 0x31, 0xB1, 0x71, 0xF1,
  0x09, 0x89, 0x49, 0xC9, 0x29, 0xA9, 0x69, 0xE9, 0x19, 0x99, 0x59, 0xD9, 0x39, 0xB9, 0x79, 0xF9,
  0x05, 0x85, 0x45, 0xC5, 0x25, 0xA5, 0x65, 0xE5, 0x15, 0x95, 0x55, 0xD5, 0x35, 0xB5, 0x75, 0xF5,
  0x0D, 0x8D, 0x4D, 0xCD, 0x2D, 0xAD, 0x6D, 0xED, 0x1D, 0x9D, 0x5D, 0xDD, 0x3D, 0xBD, 0x7D, 0xFD]

/-- 95_test_vectors.md section 2, indices 192 to 255. -/
def specReflection3 : List Byte := [
  0x03, 0x83, 0x43, 0xC3, 0x23, 0xA3, 0x63, 0xE3, 0x13, 0x93, 0x53, 0xD3, 0x33, 0xB3, 0x73, 0xF3,
  0x0B, 0x8B, 0x4B, 0xCB, 0x2B, 0xAB, 0x6B, 0xEB, 0x1B, 0x9B, 0x5B, 0xDB, 0x3B, 0xBB, 0x7B, 0xFB,
  0x07, 0x87, 0x47, 0xC7, 0x27, 0xA7, 0x67, 0xE7, 0x17, 0x97, 0x57, 0xD7, 0x37, 0xB7, 0x77, 0xF7,
  0x0F, 0x8F, 0x4F, 0xCF, 0x2F, 0xAF, 0x6F, 0xEF, 0x1F, 0x9F, 0x5F, 0xDF, 0x3F, 0xBF, 0x7F, 0xFF]

/-- 95_test_vectors.md section 3, indices 0 to 63. -/
def specTable0 : List Word := [
  0x0000, 0x8005, 0x800F, 0x000A, 0x801B, 0x001E, 0x0014, 0x8011,
  0x8033, 0x0036, 0x003C, 0x8039, 0x0028, 0x802D, 0x8027, 0x0022,
  0x8063, 0x0066, 0x006C, 0x8069, 0x0078, 0x807D, 0x8077, 0x0072,
  0x0050, 0x8055, 0x805F, 0x005A, 0x804B, 0x004E, 0x0044, 0x8041,
  0x80C3, 0x00C6, 0x00CC, 0x80C9, 0x00D8, 0x80DD, 0x80D7, 0x00D2,
  0x00F0, 0x80F5, 0x80FF, 0x00FA, 0x80EB, 0x00EE, 0x00E4, 0x80E1,
  0x00A0, 0x80A5, 0x80AF, 0x00AA, 0x80BB, 0x00BE, 0x00B4, 0x80B1,
  0x8093, 0x0096, 0x009C, 0x8099, 0x0088, 0x808D, 0x8087, 0x0082]

/-- 95_test_vectors.md section 3, indices 64 to 127. -/
def specTable1 : List Word := [
  0x8183, 0x0186, 0x018C, 0x8189, 0x0198, 0x819D, 0x8197, 0x0192,
  0x01B0, 0x81B5, 0x81BF, 0x01BA, 0x81AB, 0x01AE, 0x01A4, 0x81A1,
  0x01E0, 0x81E5, 0x81EF, 0x01EA, 0x81FB, 0x01FE, 0x01F4, 0x81F1,
  0x81D3, 0x01D6, 0x01DC, 0x81D9, 0x01C8, 0x81CD, 0x81C7, 0x01C2,
  0x0140, 0x8145, 0x814F, 0x014A, 0x815B, 0x015E, 0x0154, 0x8151,
  0x8173, 0x0176, 0x017C, 0x8179, 0x0168, 0x816D, 0x8167, 0x0162,
  0x8123, 0x0126, 0x012C, 0x8129, 0x0138, 0x813D, 0x8137, 0x0132,
  0x0110, 0x8115, 0x811F, 0x011A, 0x810B, 0x010E, 0x0104, 0x8101]

/-- 95_test_vectors.md section 3, indices 128 to 191. -/
def specTable2 : List Word := [
  0x8303, 0x0306, 0x030C, 0x8309, 0x0318, 0x831D, 0x8317, 0x0312,
  0x0330, 0x8335, 0x833F, 0x033A, 0x832B, 0x032E, 0x0324, 0x8321,
  0x0360, 0x8365, 0x836F, 0x036A, 0x837B, 0x037E, 0x0374, 0x8371,
  0x8353, 0x0356, 0x035C, 0x8359, 0x0348, 0x834D, 0x8347, 0x0342,
  0x03C0, 0x83C5, 0x83CF, 0x03CA, 0x83DB, 0x03DE, 0x03D4, 0x83D1,
  0x83F3, 0x03F6, 0x03FC, 0x83F9, 0x03E8, 0x83ED, 0x83E7, 0x03E2,
  0x83A3, 0x03A6, 0x03AC, 0x83A9, 0x03B8, 0x83BD, 0x83B7, 0x03B2,
  0x0390, 0x8395, 0x839F, 0x039A, 0x838B, 0x038E, 0x0384, 0x8381]

/-- 95_test_vectors.md section 3, indices 192 to 255. -/
def specTable3 : List Word := [
  0x0280, 0x8285, 0x828F, 0x028A, 0x829B, 0x029E, 0x0294, 0x8291,
  0x82B3, 0x02B6, 0x02BC, 0x82B9, 0x02A8, 0x82AD, 0x82A7, 0x02A2,
  0x82E3, 0x02E6, 0x02EC, 0x82E9, 0x02F8, 0x82FD, 0x82F7, 0x02F2,
  0x02D0, 0x82D5, 0x82DF, 0x02DA, 0x82CB, 0x02CE, 0x02C4, 0x82C1,
  0x8243, 0x0246, 0x024C, 0x8249, 0x0258, 0x825D, 0x8257, 0x0252,
  0x0270, 0x8275, 0x827F, 0x027A, 0x826B, 0x026E, 0x0264, 0x8261,
  0x0220, 0x8225, 0x822F, 0x022A, 0x823B, 0x023E, 0x0234, 0x8231,
  0x8213, 0x0216, 0x021C, 0x8219, 0x0208, 0x820D, 0x8207, 0x0202]

theorem test_reflection_table_0 : (List.range' 0 64).map (fun v => reflect8 (BitVec.ofNat 8 v)) = specReflection0 := by
  decide
theorem test_reflection_table_1 : (List.range' 64 64).map (fun v => reflect8 (BitVec.ofNat 8 v)) = specReflection1 := by
  decide
theorem test_reflection_table_2 : (List.range' 128 64).map (fun v => reflect8 (BitVec.ofNat 8 v)) = specReflection2 := by
  decide
theorem test_reflection_table_3 : (List.range' 192 64).map (fun v => reflect8 (BitVec.ofNat 8 v)) = specReflection3 := by
  decide
theorem test_crc_table_0 : (List.range' 0 64).map (fun i => tentry (BitVec.ofNat 8 i)) = specTable0 := by decide
theorem test_crc_table_1 : (List.range' 64 64).map (fun i => tentry (BitVec.ofNat 8 i)) = specTable1 := by decide
theorem test_crc_table_2 : (List.range' 128 64).map (fun i => tentry (BitVec.ofNat 8 i)) = specTable2 := by decide
theorem test_crc_table_3 : (List.range' 192 64).map (fun i => tentry (BitVec.ofNat 8 i)) = specTable3 := by decide

/-- Trace B4, after bit-step K = 5. -/
theorem test_bit_steps_trace : bsteps 6 (builderSeed 0x82) = (0x80C3, 0x8000) := by decide

/-! ### Commands: one step each -/

/-- R70, R71: the worked examples. -/
theorem test_tbuild_then_tread : shows (exec (.tread 0x82) (block true false 0 [] [])) =
    some ([⟨.ok, 0x030C⟩], true, false, 0) := by decide
theorem test_tbuild : shows (exec .tbuild (block false true 0x030C [] [])) =
    some ([⟨.ok, 0x0000⟩], true, true, 0x030C) := by decide

/-- 95_test_vectors.md section 7, first line. -/
theorem test_tread_unbuilt : shows (exec (.tread 0x01) State.reset) =
    some ([⟨.tableNotBuilt, 0x0000⟩], false, false, 0) := by decide

/-- R65, inside an open invocation. -/
theorem test_refl8 : shows (exec (.refl8 0x41) (block true true 0x030C [] [])) =
    some ([⟨.ok, 0x0082⟩], true, true, 0x030C) := by decide

/-- R77: an open invocation starts again. -/
theorem test_crcinit_restarts : shows (exec .crcinit (block false true 0x1234 [] [])) =
    some ([⟨.ok, 0x0000⟩], false, true, 0x0000) := by decide

/-- R79: the second byte of trace E4. -/
theorem test_crcupd : shows (exec (.crcupd 0x42) (block true true 0x030C [] [])) =
    some ([⟨.ok, 0x0000⟩], true, true, 0x0D86) := by decide

/-- R100: both flags 0. -/
theorem test_crcupd_priority : shows (exec (.crcupd 0x00) State.reset) =
    some ([⟨.accNotInit, 0x0000⟩], false, false, 0) := by decide

/-- R81, and 5.3 for the byte swap. -/
theorem test_crcfin : shows (exec .crcfin (block false true 0x1234 [] [])) =
    some ([⟨.ok, 0x2C48⟩], false, false, 0x1234) := by decide
theorem test_crcfin_not_live : shows (exec .crcfin (block true false 0x030C [] [])) =
    some ([⟨.accNotInit, 0x0000⟩], true, false, 0x030C) := by decide

/-- R83, trace E3: the check string, with the accumulator's last value. -/
theorem test_cksum_check_string : shows (exec (.cksum 9) (block true false 0 digits [])) =
    some ([⟨.ok, 0xBB3D⟩], true, false, 0xBCDD) := by decide

/-- 95_test_vectors.md section 7: bounds before table, nothing changed. -/
theorem test_cksum_bounds : shows (exec (.cksum 2) (block true true 0x030C [0x00] [])) =
    some ([⟨.boundsError, 0x0000⟩], true, true, 0x030C) := by decide

theorem test_stat : shows (exec .stat (block false true 0 [] [])) =
    some ([⟨.ok, 0x0002⟩], false, true, 0) := by decide

/-- R95: an illegal word in a step. -/
theorem test_illegal_word : shows (step (block true true 0x030C [] [.command 0x03000141])) =
    some ([⟨.illegalCommand, 0x0000⟩], true, true, 0x030C) := by decide

/-- R112: the reset input clears the flags and gives no response. -/
theorem test_reset_input : (shows (step (block true true 0x030C digits [.reset]))).map
    (fun r => (r.1, r.2.1, r.2.2.1)) = some ([], false, false) := by decide

/-! ### The engine and the assembler -/

/-- 95_test_vectors.md 5.2: order, a leading and a trailing zero byte. -/
theorem test_checksums : checksum [0x41, 0x42] = 0x61B0 ∧ checksum [0x42, 0x41] = 0x90F0 ∧
    checksum [0x00, 0x41] = 0x30C0 ∧ checksum [0x41, 0x00] = 0x5030 ∧ checksum [0xFF, 0xFF] = 0xB001 := by decide

/-- R61. -/
theorem test_packed : rspPacked ⟨.accNotInit, 0x0000⟩ = 0x40000 ∧ rspPacked ⟨.ok, 0xBB3D⟩ = 0x0BB3D := by decide

/-- The examples of R58, with blanks and a comment. -/
theorem test_assemble_lines : assembleLine "TREAD 0x82".toList = some [0x02000082] ∧
    assembleLine "  CRCUPD 'A' ; one byte".toList = some [0x05000041] ∧
    assembleLine "CKSUM 65536".toList = none ∧ assembleLine "REFL8 -1".toList = none ∧
    assembleLine "; nothing".toList = some [] := by decide

/-- Assumption 17: no blank is required before a quoted operand; a digit is read into the mnemonic. -/
theorem test_assemble_without_blank : assembleLine "CRCUPD'A'".toList = some [0x05000041] ∧
    assembleLine "CRCUPD65".toList = none := by decide

/-- R59: an alias and the pseudo-instruction. -/
theorem test_assemble_crcstr : assembleLine "CHECKSUM 9".toList = some [0x07000009] ∧
    assembleLine "CRCSTR \"12\"".toList = some [0x04000000, 0x05000031, 0x05000032, 0x06000000] := by decide

/-! ### Witnesses: states and operands that meet the hypotheses of the statements -/

theorem block_tableInv (cvalid : Bool) (crc : Word) (bytes : List Byte) (inputs : List HostInput) :
    TableInv (block true cvalid crc bytes inputs) := fun _ i => tableGet_builtTable i

theorem witness_unbuilt_tableInv (cvalid : Bool) : TableInv (block false cvalid 0 [] []) := by
  intro h; simp [block] at h

/-- DecodeAndEncodeAgree, the last clause, at the greatest operand. -/
theorem witness_decoded_word : decode 0x0700FFFF = .ok (.cksum 65535) := by decide

/-- StepRunsTheDecodedCommand. -/
theorem witness_presented_command :
    (block false false 0 [] [.command 0x08000000, .reset]).hostInputs = .command 0x08000000 :: [.reset] ∧
      decode 0x08000000 = .ok .stat := ⟨rfl, by decide⟩

/-- IllegalWordRaisesIllegalCommand, FaultMatrix (second clause), FaultsChangeNothing: the word nearest to STAT. -/
theorem witness_illegal_word : ¬ MatchesRow 0x08008000 ∧ (∀ i, decode 0x08008000 ≠ .ok i) ∧
    ∃ t, step (block true true 0x030C [] [.command 0x08008000]) = .next t ∧
      Answered (block true true 0x030C [] [.command 0x08008000]) t ⟨.illegalCommand, 0x0000⟩ := by
  refine ⟨by unfold MatchesRow; decide, fun i h => ?_, ?_⟩
  · rw [show decode 0x08008000 = .error .operandBits by decide] at h; cases h
  · have hd : decode 0x08008000 = .error .operandBits := by decide
    exact ⟨raise .illegalCommand { block true true 0x030C [] [.command 0x08008000] with hostInputs := [] },
      by rw [step_of_command (rest := []) rfl, hd], rfl⟩

/-- Refl8ReturnsTheReflection, TbuildBuildsTheTable, CrcinitOpensAnInvocation: the words nearest to legal ones. -/
theorem witness_neighbour_words : (opcField 0x03000141 = 0x03 ∧ (0x03000141 : CommandWord).extractLsb' 8 16 ≠ 0) ∧
    (opcField 0x01000001 = 0x01 ∧ (0x01000001 : CommandWord).extractLsb' 0 24 ≠ 0) ∧
    opcField 0x04000001 = 0x04 ∧ (0x04000001 : CommandWord).extractLsb' 0 24 ≠ 0 := by decide

/-- BitStepRule, a value for each clause. -/
theorem witness_bit_step : ((0x8000 : Word) ^^^ 0x0000).getLsbD 15 = true ∧
    ((0x8000 : Word) ^^^ 0x8000).getLsbD 15 = false := by decide

/-- ReflectionReversesTheBits, ReflectionLaws, FinalisationReversesSixteenBits, SplitBuilderBuildsTheSameTable:
the last index of each range. -/
theorem witness_indexes : 7 < 8 ∧ 15 < 16 ∧ 2047 < 2048 := by decide

/-- TreadReturnsTheEntry, RebuildChangesNothing, OnlyTheseCommandsWrite. -/
theorem witness_tbuild_runs (s : State) : ∃ t, exec .tbuild s = .next t := ⟨_, rfl⟩
theorem witness_flags : (block true false 0 [] []).tvalid = true ∧ (block false false 0 [] []).tvalid = false := by
  decide

/-- CrcinitOpensAnInvocation, CrcfinReturnsTheResult, StatReturnsTheStatus: the chains of commands run. -/
theorem witness_crcinit_twice : ∃ t u, exec .crcinit State.reset = .next t ∧ exec .crcinit t = .next u :=
  ⟨_, _, rfl, rfl⟩
theorem witness_stat_chain : ∃ t u v, exec .tbuild State.reset = .next t ∧ exec .crcinit t = .next u ∧
    exec .crcfin u = .next v := ⟨_, _, _, rfl, rfl, rfl⟩

/-- CrcupdFeedsOneByte and CrcfinReturnsTheResult, a state for each clause. -/
theorem witness_accumulator_states :
    ((block true true 0 [] []).cvalid = true ∧ (block true true 0 [] []).tvalid = true) ∧
    (block true false 0 [] []).cvalid = false ∧
    (block false true 0 [] []).cvalid = true ∧ (block false true 0 [] []).tvalid = false := by decide
theorem witness_crcfin_runs : ∃ t, (block false true 0x030C [] []).cvalid = true ∧
    exec .crcfin (block false true 0x030C [] []) = .next t := ⟨_, rfl, rfl⟩

/-- CksumSumsThePrefix and FaultPriority, a length for each clause: the whole buffer, one byte more, one
byte and none without a table. -/
theorem witness_cksum_lengths :
    ((9 : Word).toNat ≤ (block true false 0 digits []).bufSize ∧ (block true false 0 digits []).tvalid = true) ∧
    (block false false 0 digits []).bufSize < (10 : Word).toNat ∧ (block false false 0 digits []).tvalid = false ∧
    ((1 : Word).toNat ≤ (block false false 0 [0x00] []).bufSize ∧ (1 : Word) ≠ 0 ∧
      (block false false 0 [0x00] []).tvalid = false) ∧
    (0 : Word).toNat ≤ State.reset.bufSize := by decide

/-- CksumDependsOnThePrefixOnly: the two buffers of program P3, different after four bytes. -/
theorem witness_prefixes :
    (4 : Word).toNat ≤ (block true false 0 digits []).bufSize ∧
    (4 : Word).toNat ≤ (block true true 0x1234 [0x31, 0x32, 0x33, 0x34, 0x58] []).bufSize ∧
    ∀ p ∈ List.range (4 : Word).toNat, bufRead p (block true false 0 digits []) =
      bufRead p (block true true 0x1234 [0x31, 0x32, 0x33, 0x34, 0x58] []) := by decide

/-- CksumEqualsItsParts: a length for each clause. -/
theorem witness_parts :
    ((block true false 0 digits []).tvalid = true ∧ (9 : Word).toNat ≤ (block true false 0 digits []).bufSize) ∧
    ((block false false 0 digits []).tvalid = false ∧ (1 : Word).toNat ≤ (block false false 0 digits []).bufSize ∧
      1 ≤ (1 : Word).toNat) := by decide

/-- ChecksumIsXorLinear, the last clause. -/
theorem witness_equal_lengths : ([0x41, 0x42] : List Byte).length = ([0x01, 0x80] : List Byte).length := rfl

/-- FaultsLeaveNoTrace (second clause): an illegal word presented before STAT. -/
theorem witness_faulting_word : ∃ t, (block true true 0x030C [] [.command 0x08008000, .command 0x08000000]).hostInputs =
      .command 0x08008000 :: .command 0x08000000 :: [] ∧
    step (block true true 0x030C [] [.command 0x08008000, .command 0x08000000]) = .next t ∧
    Answered (block true true 0x030C [] [.command 0x08008000, .command 0x08000000]) t ⟨.illegalCommand, 0x0000⟩ ∧
    RspCode.illegalCommand ≠ .ok := by
  have hd : decode 0x08008000 = .error .operandBits := by decide
  exact ⟨raise .illegalCommand { block true true 0x030C [] [.command 0x08008000, .command 0x08000000] with
      hostInputs := [.command 0x08000000] },
    rfl, by rw [step_of_command (rest := [.command 0x08000000]) rfl, hd], rfl, by decide⟩

/-- FaultsLeaveNoTrace (first clause) and FaultPriority (last clause): a command that faults, at reset. -/
theorem witness_faulting_command : ∃ t, exec (.tread 0x01) State.reset = .next t ∧
    Answered State.reset t ⟨.tableNotBuilt, 0x0000⟩ ∧ RspCode.tableNotBuilt ≠ .ok := ⟨_, rfl, rfl, by decide⟩

/-- StepKeepsTableInvariant, BuiltTableStaysUntilReset: a built block that takes another command. -/
theorem witness_built_step : ∃ t, step (block true false 0 [] [.command 0x04000000]) = .next t ∧
    (block true false 0 [] [.command 0x04000000]).tvalid = true ∧
    ∀ rest, (block true false 0 [] [.command 0x04000000]).hostInputs ≠ .reset :: rest := by
  refine ⟨_, by rw [step_of_command rfl, show decode 0x04000000 = .ok .crcinit by decide]; rfl, rfl, ?_⟩
  intro rest h; cases h

/-- ReachableTablesAreBuiltRight. -/
theorem witness_run : ∃ t, runFor 1 { State.reset with hostInputs := [.reset] } = .next t := ⟨_, rfl⟩

/-- StepKeepsBufferCanonical: a buffer with a zero byte, which the canonical form does not list. -/
theorem witness_bufferInv : BufferInv (block false false 0 [0x41, 0x00, 0x42] []) := by
  refine ⟨by decide, ?_⟩
  decide

/-- UnspecifiedValuesAreNeverRead: two states after reset that hold different values in CRC and ACC. -/
theorem witness_sameReadable : SameReadable State.reset { State.reset with crc := 0x1234, acc := 0xFFFF } :=
  ⟨rfl, rfl, fun h => (Bool.false_ne_true h).elim, fun h => (Bool.false_ne_true h).elim,
    ⟨rfl, fun _ => rfl, rfl⟩, rfl⟩

/-- ResetInputClearsTheFlags and SuppliedBufferIsRead. -/
theorem witness_other_inputs : (block true true 0 [] [.reset]).hostInputs = .reset :: [] ∧
    (block true true 0 [] [.supplyBuffer digits]).hostInputs = .supplyBuffer digits :: [] := ⟨rfl, rfl⟩

/-- OneInvocationAtATime: CKSUM 0 completes inside an open invocation, and REFL8 runs. -/
theorem witness_cksum_completes : ∃ t, Completes (.cksum 0) (block false true 0x030C [] []) t 0x0000 := by
  have h0 : fin crcStart = 0x0000 := by decide
  refine ⟨respond (fin crcStart) (closeAccumulator (setAccumulator crcStart (block false true 0x030C [] []))),
    rfl, ?_, rfl, fun _ => rfl, rfl⟩
  rw [h0]
  rfl
theorem witness_refl8_runs : ∃ t, exec (.refl8 0x41) (block true true 0x030C [] []) = .next t := ⟨_, rfl⟩

/-- AliasesAndCrcstr: a string on a buffer that holds it. -/
theorem witness_crcstr : (∀ c ∈ ['1', '2'], printableAscii c = true) ∧ ['1', '2'].length ≤ 65535 ∧
    (block true false 0 [0x31, 0x32] []).tvalid = true ∧
    ['1', '2'].length ≤ (block true false 0 [0x31, 0x32] []).bufSize ∧
    bufPrefix ['1', '2'].length (block true false 0 [0x31, 0x32] []) =
      ['1', '2'].map (fun c => BitVec.ofNat 8 c.toNat) :=
  ⟨by simp [printableAscii], by decide, rfl, by decide, by decide⟩

end Sys2Proof.Tests
end

section
/-! PROOF. The table invariant of 10_state.md R26: what each operation, command and step does to TABLE and
TVALID, and from that the invariant along every run from reset. -/

namespace Sys2Proof.Machine

variable {s t : State} {go : Host.Outcome State Fault Refusal}

/-! ### What a command can end in -/

/-- Behind the table guard a command has ended as without it, or with TableNotBuilt (R97). -/
theorem requireTable_cases (h : requireTable s go = .next t) :
    go = .next t ∨ t = raise .tableNotBuilt s := by
  unfold requireTable at h
  split at h
  · exact .inl h
  · cases h; exact .inr rfl

/-- Behind the accumulator guard a command has ended as without it, or with AccNotInit (R99). -/
theorem requireAccumulator_cases (h : requireAccumulator s go = .next t) :
    go = .next t ∨ t = raise .accNotInit s := by
  unfold requireAccumulator at h
  split at h
  · exact .inl h
  · cases h; exact .inr rfl

/-- A CKSUM that has passed its checks responds with some accumulator's result and closes it (R83). -/
theorem sumAndRespond_cases {len : Word} (h : sumAndRespond len s = .next t) :
    ∃ crc, t = respond (fin crc) (closeAccumulator (setAccumulator crc s)) := by
  unfold sumAndRespond at h
  split at h
  · cases h
  · next crc _ => cases h; exact ⟨crc, rfl⟩

/-- A CKSUM has summed, or has raised one of its two faults (R83). -/
theorem execCksum_cases {len : Word} (h : execCksum len s = .next t) :
    sumAndRespond len s = .next t ∨ t = raise .boundsError s ∨ t = raise .tableNotBuilt s := by
  unfold execCksum at h
  split at h
  · cases h; exact .inr (.inl rfl)
  · split at h
    · exact .inl h
    · exact (requireTable_cases h).imp_right .inr

/-! ### TABLE and TVALID -/

/-- TABLE and TVALID are the same in both states: the part of `SameArch` that the invariant speaks of. -/
def SameTable (s t : State) : Prop := t.table = s.table ∧ t.tvalid = s.tvalid

theorem sameTable_raise (c : RspCode) (s : State) : SameTable s (raise c s) := ⟨rfl, rfl⟩

theorem sameTable_sumAndRespond {len : Word} (h : sumAndRespond len s = .next t) : SameTable s t := by
  obtain ⟨_, rfl⟩ := sumAndRespond_cases h
  exact ⟨rfl, rfl⟩

/-- Every command but TBUILD leaves TABLE and TVALID, faults included (R27, R98). -/
theorem exec_sameTable {i : Instr} (hi : i ≠ .tbuild) (h : exec i s = .next t) : SameTable s t := by
  cases i with
  | tbuild => exact absurd rfl hi
  | refl8 | crcinit | stat => cases h; exact ⟨rfl, rfl⟩
  | tread idx =>
    obtain h | rfl := requireTable_cases h
    · cases h; exact ⟨rfl, rfl⟩
    · exact sameTable_raise ..
  | crcupd b =>
    obtain h | rfl := requireAccumulator_cases h
    · obtain h | rfl := requireTable_cases h
      · cases h; exact ⟨rfl, rfl⟩
      · exact sameTable_raise ..
    · exact sameTable_raise ..
  | crcfin =>
    obtain h | rfl := requireAccumulator_cases h
    · cases h; exact ⟨rfl, rfl⟩
    · exact sameTable_raise ..
  | cksum len =>
    obtain h | rfl | rfl := execCksum_cases h
    · exact sameTable_sumAndRespond h
    · exact sameTable_raise ..
    · exact sameTable_raise ..

/-- TBUILD leaves the built table (R70). -/
theorem exec_tbuild_table (h : exec .tbuild s = .next t) : t.table = builtTable := by
  cases h; rfl

/-! ### The invariant -/

theorem SameTable.tableInv (h : SameTable s t) (hs : TableInv s) : TableInv t := by
  obtain ⟨htable, htvalid⟩ := h
  simpa only [TableInv, htable, htvalid] using hs

theorem tableInv_of_unbuilt (h : s.tvalid = false) : TableInv s := by
  simp [TableInv, h]

theorem tableInv_of_builtTable (h : s.table = builtTable) : TableInv s := by
  intro _ i
  rw [h, tableGet_builtTable]

theorem exec_keeps_tableInv {i : Instr} (hs : TableInv s) (h : exec i s = .next t) : TableInv t := by
  by_cases hi : i = .tbuild
  · subst hi; exact tableInv_of_builtTable (exec_tbuild_table h)
  · exact (exec_sameTable hi h).tableInv hs

/-- A step keeps the invariant: only a reset input and TBUILD touch TABLE, the one with TVALID cleared, the
other with every entry right. -/
theorem step_keeps_tableInv (hs : TableInv s) (h : step s = .next t) : TableInv t := by
  cases hin : s.hostInputs with
  | nil =>
    rw [step_of_no_input hin] at h
    cases h; exact hs
  | cons x rest =>
    have htaken : TableInv { s with hostInputs := rest } := hs
    cases x with
    | reset =>
      rw [step_of_reset hin] at h
      cases h; exact tableInv_of_unbuilt (applyReset_tvalid _)
    | supplyBuffer bytes =>
      rw [step_of_supplyBuffer hin] at h
      cases h; exact htaken
    | command w =>
      rw [step_of_command hin] at h
      split at h
      · exact exec_keeps_tableInv htaken h
      · cases h; exact (sameTable_raise ..).tableInv htaken

/-! ### Runs -/

/-- A run of `n + 1` steps is a step and a run of `n`. -/
theorem runFor_succ_eq_next {n : Nat} :
    runFor (n + 1) s = .next t ↔ ∃ u, step s = .next u ∧ runFor n u = .next t := by
  rw [runFor]
  cases step s <;> simp

/-- What every step keeps, every run keeps. -/
theorem runFor_keeps {P : State → Prop} (hstep : ∀ {s t}, P s → step s = .next t → P t) {n : Nat}
    (hs : P s) (h : runFor n s = .next t) : P t := by
  induction n generalizing s with
  | zero => cases h; exact hs
  | succ n ih =>
    obtain ⟨u, hu, hrun⟩ := runFor_succ_eq_next.1 h
    exact ih (hstep hs hu) hrun

/-- A run from reset that meets the hypotheses of `reachableTablesAreBuiltRight`: one TBUILD (R70). -/
theorem runFor_tbuild_from_reset : ∃ t,
    runFor 1 { State.reset with hostInputs := [.command 0x01000000] } = .next t ∧ t.tvalid = true := by
  have hdecode : decode 0x01000000 = .ok .tbuild := by decide
  refine ⟨respond 0x0000 (installTable builtTable State.reset), runFor_succ_eq_next.2 ⟨_, ?_, rfl⟩, rfl⟩
  rw [step_of_command rfl, hdecode]
  rfl

/-- Settles O42: at reset TVALID is 0, so the invariant holds there, and every step of the run keeps it. -/
theorem reachableTablesAreBuiltRight : Obligations.ReachableTablesAreBuiltRight := by
  intro l n t hrun
  have hreset : TableInv { State.reset with hostInputs := l } := tableInv_of_unbuilt rfl
  exact runFor_keeps step_keeps_tableInv hreset hrun

end Sys2Proof.Machine
end

section
/-! PROOF. The encoding (30_encoding.md R53, R54). A word is its three fields, and `decode` accepts it as a
command exactly when they are that command's fields: both round trips and the eight rows by match and mask
follow from that. -/

namespace Sys2Proof

variable {w : CommandWord} {i j : Instr}

/-! ### A word and its fields -/

/-- R48: the three fields cover the word. -/
theorem append_fields (w : CommandWord) : opcField w ++ rsvField w ++ opdField w = w := by
  have high : opcField w ++ rsvField w = w.extractLsb' 16 16 :=
    BitVec.extractLsb'_append_extractLsb'_eq_extractLsb' rfl
  rw [high]
  exact BitVec.extractLsb'_append_extractLsb'

theorem eq_append_iff (o r : BitVec 8) (d : Word) :
    w = o ++ r ++ d ↔ opcField w = o ∧ rsvField w = r ∧ opdField w = d := by
  constructor
  · rintro rfl
    exact Laws.EncodedFields.fields_of_append o r d
  · rintro ⟨rfl, rfl, rfl⟩
    exact (append_fields w).symm

/-- `w` has the three fields of the encoding of `i`. -/
def HasFieldsOf (w : CommandWord) (i : Instr) : Prop :=
  opcField w = opcodeOf i ∧ rsvField w = 0 ∧ opdField w = operandOf i

theorem encode_eq_iff : encode i = w ↔ HasFieldsOf w i := by
  rw [eq_comm, encode, eq_append_iff, HasFieldsOf]

/-- R50, R52: the operand field is its unused half and the byte operand. -/
theorem append_operandBytes (w : CommandWord) : opdHigh w ++ imm8Field w = opdField w :=
  BitVec.extractLsb'_append_extractLsb'_eq_extractLsb' rfl

theorem opdField_eq_setWidth_iff {b : Byte} :
    opdField w = b.setWidth 16 ↔ opdHigh w = 0 ∧ imm8Field w = b := by
  have zeroExtended : b.setWidth 16 = (0 : Byte) ++ b := BitVec.setWidth_eq_append (by decide)
  rw [zeroExtended, ← append_operandBytes]
  constructor
  · intro h
    have high := congrArg (BitVec.extractLsb' 8 8) h
    have low := congrArg (BitVec.extractLsb' 0 8) h
    rw [BitVec.extractLsb'_append_eq_left, BitVec.extractLsb'_append_eq_left] at high
    rw [BitVec.extractLsb'_append_eq_right, BitVec.extractLsb'_append_eq_right] at low
    exact ⟨high, low⟩
  · rintro ⟨high, low⟩
    rw [high, low]

/-! ### The decoder -/

theorem decodeZ_eq_ok_iff : decodeZ i w = .ok j ↔ i = j ∧ opdField w = 0 := by
  unfold decodeZ
  split
  next h => simp [h]
  next h => exact ⟨nofun, fun ⟨_, hzero⟩ => absurd hzero h⟩

theorem decodeB_eq_ok_iff {mk : Byte → Instr} :
    decodeB mk w = .ok j ↔ ∃ b, mk b = j ∧ opdField w = b.setWidth 16 := by
  simp only [opdField_eq_setWidth_iff]
  unfold decodeB
  split
  next h => simp [h]
  next h => exact ⟨nofun, fun ⟨_, _, hhigh, _⟩ => absurd hhigh h⟩

theorem hasFieldsOf_of_decodeZ (h : decodeZ i w = .ok j) (hop : opcField w = opcodeOf i)
    (hrsv : rsvField w = 0) (hi : operandOf i = 0) : HasFieldsOf w j := by
  obtain ⟨rfl, hopd⟩ := decodeZ_eq_ok_iff.1 h
  exact ⟨hop, hrsv, hopd.trans hi.symm⟩

theorem hasFieldsOf_of_decodeB {mk : Byte → Instr} (h : decodeB mk w = .ok j)
    (hop : ∀ b, opcField w = opcodeOf (mk b)) (hrsv : rsvField w = 0)
    (hmk : ∀ b, operandOf (mk b) = b.setWidth 16) : HasFieldsOf w j := by
  obtain ⟨b, rfl, hopd⟩ := decodeB_eq_ok_iff.1 h
  exact ⟨hop b, hrsv, hopd.trans (hmk b).symm⟩

/-- What `decode` accepts as `i` has the fields of the encoding of `i`: the decoder's chain of tests, one
opcode after the other. -/
theorem hasFieldsOf_of_decode (h : decode w = .ok i) : HasFieldsOf w i := by
  unfold decode at h
  split at h
  next => cases h
  next hrsv =>
  rw [ne_eq, not_not] at hrsv
  split at h
  next hop => exact hasFieldsOf_of_decodeZ h hop hrsv rfl
  split at h
  next hop => exact hasFieldsOf_of_decodeB h (fun _ => hop) hrsv (fun _ => rfl)
  split at h
  next hop => exact hasFieldsOf_of_decodeB h (fun _ => hop) hrsv (fun _ => rfl)
  split at h
  next hop => exact hasFieldsOf_of_decodeZ h hop hrsv rfl
  split at h
  next hop => exact hasFieldsOf_of_decodeB h (fun _ => hop) hrsv (fun _ => rfl)
  split at h
  next hop => exact hasFieldsOf_of_decodeZ h hop hrsv rfl
  split at h
  next hop => cases h; exact ⟨hop, hrsv, rfl⟩
  split at h
  next hop => exact hasFieldsOf_of_decodeZ h hop hrsv rfl
  cases h

/-- A word with the fields of the encoding of `i` decodes to `i`. -/
theorem decode_of_hasFieldsOf (h : HasFieldsOf w i) : decode w = .ok i := by
  obtain ⟨hop, hrsv, hopd⟩ := h
  cases i with
  | tbuild | crcinit | crcfin | stat =>
    simpa [decode, hrsv, hop, opcodeOf] using decodeZ_eq_ok_iff.2 ⟨rfl, hopd⟩
  | tread b | refl8 b | crcupd b =>
    simpa [decode, hrsv, hop, opcodeOf] using decodeB_eq_ok_iff.2 ⟨b, rfl, hopd⟩
  | cksum len =>
    have hlen : opdField w = len := hopd
    simp [decode, hrsv, hop, opcodeOf, hlen]

/-- R54: the decoder, said once. -/
theorem decode_eq_ok_iff : decode w = .ok i ↔ HasFieldsOf w i :=
  ⟨hasFieldsOf_of_decode, decode_of_hasFieldsOf⟩

theorem decode_eq_ok_iff_encode_eq : decode w = .ok i ↔ encode i = w :=
  decode_eq_ok_iff.trans encode_eq_iff.symm

/-! ### Match and mask -/

/-- A mask that keeps `opc` and `rsv` whole, with its low half `m`, asks for these two fields and for zero in
the operand bits of `m`. -/
theorem and_mask_eq_iff {mask row : CommandWord} {op : BitVec 8} {m : Word}
    (hmask : mask = BitVec.allOnes 8 ++ BitVec.allOnes 8 ++ m)
    (hrow : row = op ++ (0 : BitVec 8) ++ (0 : Word)) :
    w &&& mask = row ↔ opcField w = op ∧ rsvField w = 0 ∧ opdField w &&& m = 0 := by
  have masked : w &&& mask = opcField w ++ rsvField w ++ (opdField w &&& m) := by
    calc w &&& mask
      _ = (opcField w ++ rsvField w ++ opdField w) &&&
            (BitVec.allOnes 8 ++ BitVec.allOnes 8 ++ m) := by rw [append_fields, hmask]
      _ = opcField w ++ rsvField w ++ (opdField w &&& m) := by
            simp only [BitVec.and_append, BitVec.and_allOnes]
  obtain ⟨hopc, hrsv, hopd⟩ :=
    Laws.EncodedFields.fields_of_append (opcField w) (rsvField w) (opdField w &&& m)
  rw [masked, hrow, eq_append_iff, hopc, hrsv, hopd]

theorem opdField_and_0xFF00_eq_zero_iff : opdField w &&& 0xFF00 = 0 ↔ opdHigh w = 0 := by
  have mask : (0xFF00 : Word) = BitVec.allOnes 8 ++ (0 : Byte) := by decide
  have zero : (0 : Word) = (0 : Byte) ++ (0 : Byte) := by decide
  have low : imm8Field w &&& 0 = 0 := BitVec.and_zero
  rw [← append_operandBytes, mask, BitVec.and_append, BitVec.and_allOnes, low, zero]
  exact BitVec.append_left_inj _

section Rows

variable {row : CommandWord} (op : BitVec 8) (hop : opcodeOf i = op)
  (hrow : row = op ++ (0 : BitVec 8) ++ (0 : Word))

include hop hrow

/-- A row of format Z (R49), by its match and mask. -/
theorem decode_eq_ok_iff_of_formatZ (hi : operandOf i = 0) : decode w = .ok i ↔ w &&& 0xFFFFFFFF = row := by
  have hmask : (0xFFFFFFFF : CommandWord) = BitVec.allOnes 8 ++ BitVec.allOnes 8 ++ BitVec.allOnes 16 := by
    decide
  rw [decode_eq_ok_iff, HasFieldsOf, hop, hi, and_mask_eq_iff hmask hrow, BitVec.and_allOnes]

/-- A row of format B (R50), by its match and mask, with its operand. -/
theorem decode_eq_ok_iff_of_formatB {b : Byte} (hi : operandOf i = b.setWidth 16) :
    decode w = .ok i ↔ w &&& 0xFFFFFF00 = row ∧ b = w.extractLsb' 0 8 := by
  have hmask : (0xFFFFFF00 : CommandWord) = BitVec.allOnes 8 ++ BitVec.allOnes 8 ++ (0xFF00 : Word) := by
    decide
  have hb : b = w.extractLsb' 0 8 ↔ imm8Field w = b := eq_comm
  rw [decode_eq_ok_iff, HasFieldsOf, hop, hi, opdField_eq_setWidth_iff, and_mask_eq_iff hmask hrow,
    opdField_and_0xFF00_eq_zero_iff, hb, and_assoc, and_assoc]

/-- A row of format H (R51), by its match and mask, with its operand. -/
theorem decode_eq_ok_iff_of_formatH {len : Word} (hi : operandOf i = len) :
    decode w = .ok i ↔ w &&& 0xFFFF0000 = row ∧ len = w.extractLsb' 0 16 := by
  have hmask : (0xFFFF0000 : CommandWord) = BitVec.allOnes 8 ++ BitVec.allOnes 8 ++ (0 : Word) := by
    decide
  have hlen : len = w.extractLsb' 0 16 ↔ opdField w = len := eq_comm
  have noOperandBits : opdField w &&& 0 = 0 := BitVec.and_zero
  rw [decode_eq_ok_iff, HasFieldsOf, hop, hi, and_mask_eq_iff hmask hrow, hlen, noOperandBits]
  simp only [and_true, and_assoc]

end Rows

/-! ### The obligations -/

/-- Settles O2: a word is its three fields, and decodes to a command exactly when it is that command's
encoding. -/
theorem decodeAndEncodeAgree : Obligations.DecodeAndEncodeAgree :=
  ⟨fun _ => encode_eq_iff.1 rfl,
    fun _ => decode_eq_ok_iff_encode_eq.2 rfl,
    fun _ _ => decode_eq_ok_iff_encode_eq.1⟩

/-- Settles O3: each row by the lemma of its format. -/
theorem opcodeMapRowsByMatchAndMask : Obligations.OpcodeMapRowsByMatchAndMask :=
  ⟨fun _ => decode_eq_ok_iff_of_formatZ 0x01 rfl (by decide) rfl,
    fun _ _ => decode_eq_ok_iff_of_formatB 0x02 rfl (by decide) rfl,
    fun _ _ => decode_eq_ok_iff_of_formatB 0x03 rfl (by decide) rfl,
    fun _ => decode_eq_ok_iff_of_formatZ 0x04 rfl (by decide) rfl,
    fun _ _ => decode_eq_ok_iff_of_formatB 0x05 rfl (by decide) rfl,
    fun _ => decode_eq_ok_iff_of_formatZ 0x06 rfl (by decide) rfl,
    fun _ _ => decode_eq_ok_iff_of_formatH 0x07 rfl (by decide) rfl,
    fun _ => decode_eq_ok_iff_of_formatZ 0x08 rfl (by decide) rfl⟩

end Sys2Proof
end

section
/-! PROOF. The bit-reflection unit and REFL8 (40_reflect.md R62 to R65). `reflect8` is the library's
`BitVec.reverse`; the laws of the unit follow from that and from where each bit goes. -/

namespace Sys2Proof

/-! ### Words and their fields -/

/-- R54 with the fields shifted into place: the form in which the rules write a command's word. -/
theorem encode_eq_or (i : Instr) :
    encode i = (opcodeOf i).setWidth 32 <<< 24 ||| (operandOf i).setWidth 32 := by
  have parts := BitVec.setWidth_append_append_eq_shiftLeft_setWidth_or (w''' := 32)
    (b := opcodeOf i) (b' := (0 : BitVec 8)) (b'' := operandOf i)
  rw [BitVec.setWidth_eq] at parts
  rw [encode, parts]
  simp

/-- The neighbours of a command of format B (R50): with any of bits 23:8 set, a word is not its word. -/
theorem extractLsb'_8_16_eq_zero_of_decode {w : CommandWord} {i : Instr} {b : Byte} (h : decode w = .ok i)
    (hi : operandOf i = b.setWidth 16) : w.extractLsb' 8 16 = 0 := by
  obtain ⟨-, hrsv, hopd⟩ := decode_eq_ok_iff.1 h
  obtain ⟨hhigh, -⟩ := opdField_eq_setWidth_iff.1 (hopd.trans hi)
  have halves : rsvField w ++ opdHigh w = w.extractLsb' 8 16 :=
    BitVec.extractLsb'_append_extractLsb'_eq_extractLsb' rfl
  rw [← halves, hrsv, hhigh]
  rfl

theorem opcodeOf_eq_three_iff {i : Instr} : opcodeOf i = 0x03 ↔ ∃ v, i = .refl8 v := by
  cases i <;> simp [opcodeOf]

end Sys2Proof

namespace Sys2Proof.Machine

/-! ### Bits -/

/-- R62, one term of the rule: bit `i` of the byte, moved to position `j`. -/
theorem getLsbD_movedBit (v : Byte) (i : Nat) {j k : Nat} (hk : k < 8) :
    (((v >>> i) &&& 1) <<< j).getLsbD k = (decide (k = j) && v.getLsbD i) := by
  have bitOfOne (n : Nat) : (1 : Byte).getLsbD n = decide (n = 0) := by simp [BitVec.getLsbD_one]
  rw [BitVec.getLsbD_shiftLeft, BitVec.getLsbD_and, BitVec.getLsbD_ushiftRight, bitOfOne]
  rcases Nat.lt_trichotomy k j with h | rfl | h
  · simp [h, h.ne]
  · simp [hk]
  · simp [h.ne', show k - j ≠ 0 by omega]

/-- The last term of the rule, which needs no shift to the left. -/
theorem getLsbD_lowestBit (v : Byte) (i : Nat) {k : Nat} (hk : k < 8) :
    ((v >>> i) &&& 1).getLsbD k = (decide (k = 0) && v.getLsbD i) := by
  simpa using getLsbD_movedBit v i (j := 0) hk

theorem getLsbD_reflect8 (v : Byte) {k : Nat} (hk : k < 8) : (reflect8 v).getLsbD k = v.getLsbD (7 - k) := by
  simp only [reflect8, BitVec.getLsbD_or, getLsbD_movedBit v _ hk, getLsbD_lowestBit v _ hk]
  interval_cases k <;> simp

theorem reflect8_eq_reverse (v : Byte) : reflect8 v = v.reverse := by
  apply BitVec.eq_of_getLsbD_eq
  intro k hk
  rw [getLsbD_reflect8 v hk, BitVec.getLsbD_reverse, BitVec.getMsbD]
  simp [hk]

/-! ### The masked swaps -/

/-- One stage of R63: the bits that `hi` masks go down by `n`, the bits that `lo` masks go up by `n`. -/
def maskedSwap (hi lo : Byte) (n : Nat) (v : Byte) : Byte := ((v &&& hi) >>> n) ||| ((v &&& lo) <<< n)

theorem reflect8Swaps_eq_maskedSwaps (v : Byte) :
    reflect8Swaps v = maskedSwap 0xAA 0x55 1 (maskedSwap 0xCC 0x33 2 (maskedSwap 0xF0 0x0F 4 v)) := rfl

/-- The masks of a stage give position `k` one bit, whose index differs from `k` by `n` in binary: `hi` lets it
come down from `n+k`, or `lo` lets it come up from `k-n`. -/
def MasksExchange (hi lo : Byte) (n : Nat) : Prop :=
  ∀ k < 8,
    hi.getLsbD (n + k) = true ∧ (k < n ∨ lo.getLsbD (k - n) = false) ∧ k ^^^ n = n + k ∨
    hi.getLsbD (n + k) = false ∧ (¬ k < n ∧ lo.getLsbD (k - n) = true) ∧ k ^^^ n = k - n

theorem getLsbD_maskedSwap {hi lo : Byte} {n k : Nat} (h : MasksExchange hi lo n) (v : Byte) (hk : k < 8) :
    (maskedSwap hi lo n v).getLsbD k = v.getLsbD (k ^^^ n) := by
  rw [maskedSwap, BitVec.getLsbD_or, BitVec.getLsbD_ushiftRight, BitVec.getLsbD_and,
    BitVec.getLsbD_shiftLeft, BitVec.getLsbD_and]
  obtain ⟨hhi, hlo | hlo, hindex⟩ | ⟨hhi, ⟨hn, hlo⟩, hindex⟩ := h k hk
  · simp [hhi, hlo, hindex]
  · simp [hhi, hlo, hindex]
  · simp [hhi, hlo, hindex, hn, hk]

/-- R63: the three stages together move bit `k` to bit `k XOR 7`, which is `7-k`. -/
theorem reflect8Swaps_eq_reflect8 (v : Byte) : reflect8Swaps v = reflect8 v := by
  have nibbles : MasksExchange 0xF0 0x0F 4 := by unfold MasksExchange; decide
  have pairs : MasksExchange 0xCC 0x33 2 := by unfold MasksExchange; decide
  have single : MasksExchange 0xAA 0x55 1 := by unfold MasksExchange; decide
  have indexes : ∀ k < 8, k ^^^ 1 < 8 ∧ k ^^^ 1 ^^^ 2 < 8 ∧ k ^^^ 1 ^^^ 2 ^^^ 4 = 7 - k := by decide
  apply BitVec.eq_of_getLsbD_eq
  intro k hk
  obtain ⟨h1, h2, h7⟩ := indexes k hk
  rw [reflect8Swaps_eq_maskedSwaps, getLsbD_maskedSwap single _ hk, getLsbD_maskedSwap pairs _ h1,
    getLsbD_maskedSwap nibbles _ h2, h7, getLsbD_reflect8 v hk]

/-! ### The laws (R64) -/

theorem reflect8_reflect8 (v : Byte) : reflect8 (reflect8 v) = v := by
  rw [reflect8_eq_reverse, reflect8_eq_reverse, BitVec.reverse_reverse_eq]

theorem reflect8_xor (a b : Byte) : reflect8 (a ^^^ b) = reflect8 a ^^^ reflect8 b := by
  apply BitVec.eq_of_getLsbD_eq
  intro k hk
  simp only [BitVec.getLsbD_xor, getLsbD_reflect8 _ hk]

theorem reflect8_zero : reflect8 0x00 = 0x00 := by decide

/-- Bit `j` of `1 << k` is its only one when `j = k`; of the reflection when `7-j = k`. -/
theorem reflect8_one_shiftLeft {k : Nat} (hk : k < 8) : reflect8 (1#8 <<< k) = 1#8 <<< (7 - k) := by
  apply BitVec.eq_of_getLsbD_eq
  intro j hj
  rw [getLsbD_reflect8 _ hj, ← BitVec.twoPow_eq, ← BitVec.twoPow_eq, BitVec.getLsbD_twoPow,
    BitVec.getLsbD_twoPow]
  have sameBit : k = 7 - j ↔ 7 - k = j := by omega
  have inRange : 7 - k < 8 := by omega
  simp only [hk, inRange, sameBit]

theorem countP_getLsbD_reflect8 (v : Byte) :
    (List.range 8).countP (reflect8 v).getLsbD = (List.range 8).countP v.getLsbD := by
  have reversed : (List.range 8).map (7 - ·) = (List.range 8).reverse := by decide
  calc (List.range 8).countP (reflect8 v).getLsbD
    _ = (List.range 8).countP (v.getLsbD ∘ (7 - ·)) :=
        List.countP_congr fun k hk => by rw [getLsbD_reflect8 v (List.mem_range.1 hk), Function.comp]
    _ = ((List.range 8).map (7 - ·)).countP v.getLsbD := List.countP_map.symm
    _ = (List.range 8).countP v.getLsbD := by rw [reversed, List.countP_reverse]

/-! ### The fixed points (R64) -/

/-- The byte with low half `n` that reads the same from both ends. -/
def palindrome (n : BitVec 4) : Byte := n.reverse ++ n

theorem reflect8_palindrome (n : BitVec 4) : reflect8 (palindrome n) = palindrome n := by
  rw [reflect8_eq_reverse, palindrome, BitVec.reverse_append, BitVec.reverse_reverse_eq]
  rfl

/-- The fixed points are the palindromes: `v[k] = v[7-k]` for `k` from 0 to 3. -/
theorem reflect8_eq_self_iff {v : Byte} : reflect8 v = v ↔ palindrome (v.extractLsb' 0 4) = v := by
  have halves : v.extractLsb' 4 4 ++ v.extractLsb' 0 4 = v := BitVec.extractLsb'_append_extractLsb'
  constructor
  · intro h
    have mirrored : v = (v.extractLsb' 0 4).reverse ++ (v.extractLsb' 4 4).reverse := by
      calc v
        _ = (v.extractLsb' 4 4 ++ v.extractLsb' 0 4).reverse := by rw [halves, ← reflect8_eq_reverse, h]
        _ = (v.extractLsb' 0 4).reverse ++ (v.extractLsb' 4 4).reverse := BitVec.reverse_append
    have high := congrArg (BitVec.extractLsb' 4 4) mirrored
    rw [BitVec.extractLsb'_append_eq_left] at high
    rw [palindrome, ← high, halves]
  · intro h
    rw [← h, reflect8_palindrome]

/-! ### REFL8 (R65) -/

theorem samePorts_respond (d : Word) (s : State) : SamePorts s (respond d s) := ⟨rfl, fun _ => rfl, rfl⟩

theorem sameArch_respond (d : Word) (s : State) : SameArch s (respond d s) := ⟨rfl, rfl, rfl, rfl⟩

theorem completes_refl8 (v : Byte) (s : State) :
    Completes (.refl8 v) s (respond (zext16 (reflect8 v)) s) (zext16 (reflect8 v)) :=
  ⟨rfl, respond_responses .., samePorts_respond ..⟩

@[simp] theorem highByte_zext16 (b : Byte) : highByte (zext16 b) = 0 := by
  have zeroExtended : zext16 b = (0 : Byte) ++ b := BitVec.setWidth_eq_append (by decide)
  rw [zeroExtended, highByte, BitVec.extractLsb'_append_eq_left]

/-! ### The obligations -/

/-- Settles O8: of the eight terms of R62, the one that lands on bit `k` carries bit `7-k`. -/
theorem reflectionReversesTheBits : Obligations.ReflectionReversesTheBits :=
  fun v _ hk => getLsbD_reflect8 v hk

/-- Settles O9: the three stages of R63 change the bits of an index one after the other. -/
theorem maskedSwapsReflect : Obligations.MaskedSwapsReflect := reflect8Swaps_eq_reflect8

/-- Settles O10: the laws above; the fixed points are the palindromes of the sixteen low halves. -/
theorem reflectionLaws : Obligations.ReflectionLaws := by
  have involutive : Function.Involutive reflect8 := reflect8_reflect8
  refine ⟨involutive, involutive.bijective, reflect8_xor, reflect8_zero, fun v => ?_,
    fun _ => reflect8_one_shiftLeft, countP_getLsbD_reflect8⟩
  rw [reflect8_eq_self_iff]
  constructor
  · intro h
    rw [← h]
    generalize v.extractLsb' 0 4 = n
    revert n
    decide
  · revert v
    decide

/-- Settles O11: REFL8's word is its fields, no other word with its opcode is a command, and the command
ends in `respond` on the state it found. -/
theorem refl8ReturnsTheReflection : Obligations.Refl8ReturnsTheReflection := by
  refine ⟨fun v => ?word, fun w i hop hbits h => ?neighbours,
    fun v s => ⟨_, completes_refl8 v s, sameArch_respond ..⟩, fun v => highByte_zext16 _, by decide, by decide,
    by decide⟩
  case word =>
    have opcode : (0x03 : BitVec 8).setWidth 32 <<< 24 = (0x03000000 : CommandWord) := by decide
    have operand : (v.setWidth 16).setWidth 32 = v.setWidth 32 :=
      BitVec.setWidth_setWidth (by decide)
    rw [encode_eq_or, opcodeOf, operandOf, opcode, operand]
  case neighbours =>
    obtain ⟨hopcode, -, -⟩ := decode_eq_ok_iff.1 h
    obtain ⟨v, rfl⟩ := opcodeOf_eq_three_iff.1 (hopcode.symm.trans hop)
    exact hbits (extractLsb'_8_16_eq_zero_of_decode h rfl)

end Sys2Proof.Machine
end

section
/-! PROOF. The table builder, TBUILD and TREAD (41_table_builder.md R68 to R72). The two registers of a bit-step
act as the one register `ACC XOR WORK`, whose step is XOR-linear and injective; the facts about the entries
follow from that and from where each bit goes. -/

namespace Sys2Proof

/-! ### Words and their fields -/

variable {w : CommandWord} {i : Instr}

/-- The neighbours of a command of format Z (R49): with any of bits 23:0 set, a word is not its word. -/
theorem extractLsb'_0_24_eq_zero_of_decode (h : decode w = .ok i) (hi : operandOf i = 0) :
    w.extractLsb' 0 24 = 0 := by
  obtain ⟨-, hrsv, hopd⟩ := decode_eq_ok_iff.1 h
  have parts : rsvField w ++ opdField w = w.extractLsb' 0 24 :=
    BitVec.extractLsb'_append_extractLsb'_eq_extractLsb' rfl
  rw [← parts, hrsv, hopd, hi]
  rfl

theorem opcodeOf_eq_one_iff : opcodeOf i = 0x01 ↔ i = .tbuild := by
  cases i <;> simp [opcodeOf]

/-- The word of a command of format B (R50, R54): its row with the operand in the low bits. -/
theorem encode_eq_row_or_of_formatB {row : CommandWord} {b : Byte} (op : BitVec 8) (hop : opcodeOf i = op)
    (hrow : op.setWidth 32 <<< 24 = row) (hi : operandOf i = b.setWidth 16) :
    encode i = row ||| b.setWidth 32 := by
  have operand : (b.setWidth 16).setWidth 32 = b.setWidth 32 := BitVec.setWidth_setWidth (by decide)
  rw [encode_eq_or, hop, hrow, hi, operand]

end Sys2Proof

namespace Sys2Proof.Machine

/-! ### The bit-step (R68) -/

theorem shl16_xor (a b : Word) (n : Nat) : shl16 (a ^^^ b) n = shl16 a n ^^^ shl16 b n :=
  BitVec.shiftLeft_xor_distrib ..

/-- R10: a shift by one keeps bits 14:0, doubled, and discards bit 15. -/
theorem toNat_shl16_one (a : Word) : (shl16 a 1).toNat = a.toNat * 2 % 65536 := by
  rw [shl16, BitVec.toNat_shiftLeft, Nat.shiftLeft_eq]

theorem bstep_of_bit_set {acc work : Word} (h : (acc ^^^ work).getLsbD 15 = true) :
    bstep (acc, work) = (shl16 acc 1 ^^^ poly, shl16 work 1) := by
  simp only [bstep, h, if_true]

theorem bstep_of_bit_clear {acc work : Word} (h : (acc ^^^ work).getLsbD 15 = false) :
    bstep (acc, work) = (shl16 acc 1, shl16 work 1) := by
  simp only [bstep, h, Bool.false_eq_true, if_false]

theorem bsteps_snd (n : Nat) (p : Word × Word) : (bsteps n p).2 = shl16 p.2 n := by
  induction n generalizing p with
  | zero => exact (BitVec.shiftLeft_zero _).symm
  | succ n ih =>
    calc (bsteps n (bstep p)).2
      _ = shl16 (shl16 p.2 1) n := ih (bstep p)
      _ = shl16 p.2 (n + 1) := by rw [shl16, shl16, ← BitVec.shiftLeft_add, Nat.add_comm, shl16]

/-! ### The seed (R69) -/

/-- The working value at the start: the index in the high byte, zero in the low byte. -/
theorem builderSeed_snd (i : Byte) : (builderSeed i).2 = i ++ (0 : Byte) := by
  have parts := BitVec.setWidth_append_eq_shiftLeft_setWidth_or (w'' := 16) (b := i) (b' := (0 : Byte))
  simpa [builderSeed, shl16, zext16] using parts.symm

theorem builderSeed_snd_xor (a b : Byte) :
    (builderSeed (a ^^^ b)).2 = (builderSeed a).2 ^^^ (builderSeed b).2 := by
  simp only [builderSeed, zext16, BitVec.setWidth_xor, shl16_xor]

theorem builderSeed_snd_injective : Function.Injective fun i => (builderSeed i).2 := by
  intro a b h
  simp only [builderSeed_snd] at h
  exact (BitVec.append_left_inj _).1 h

theorem getMsbD_builderSeed_snd (i : Byte) (k : Nat) : (builderSeed i).2.getMsbD k = i.getMsbD k := by
  rw [builderSeed_snd, BitVec.getMsbD_append]
  split
  next h => simp [BitVec.getMsbD_of_ge i k h]
  next => rfl

/-- R69: eight bit-steps shift the whole index out of the working value. -/
theorem bsteps_eight_builderSeed_snd (i : Byte) : (bsteps 8 (builderSeed i)).2 = 0 := by
  rw [bsteps_snd, builderSeed, shl16, shl16, ← BitVec.shiftLeft_add]
  exact BitVec.shiftLeft_eq_zero (by decide)

/-! ### The one-register form (R72) -/

/-- The step of the one-register form: the register stands for `ACC XOR WORK`. -/
def registerStep (r : Word) : Word := if r.getLsbD 15 then shl16 r 1 ^^^ poly else shl16 r 1

/-- The XOR of the two registers after a bit-step depends on their XOR alone. -/
theorem registerStep_xor_registers (p : Word × Word) :
    registerStep (p.1 ^^^ p.2) = (bstep p).1 ^^^ (bstep p).2 := by
  obtain ⟨acc, work⟩ := p
  cases h : (acc ^^^ work).getLsbD 15 with
  | false => simp only [registerStep, h, Bool.false_eq_true, if_false, bstep_of_bit_clear h, shl16_xor]
  | true =>
    simp only [registerStep, h, if_true, bstep_of_bit_set h, shl16_xor]
    ac_rfl

theorem iterate_registerStep_xor_registers (n : Nat) (p : Word × Word) :
    registerStep^[n] (p.1 ^^^ p.2) = (bsteps n p).1 ^^^ (bsteps n p).2 := by
  induction n generalizing p with
  | zero => rfl
  | succ n ih => rw [Function.iterate_succ_apply, registerStep_xor_registers, ih, bsteps]

/-- The entry is the register after eight steps, since the working value is then zero. -/
theorem tentry_eq_iterate (i : Byte) : tentry i = registerStep^[8] (builderSeed i).2 := by
  calc tentry i
    _ = (bsteps 8 (builderSeed i)).1 ^^^ (bsteps 8 (builderSeed i)).2 := by
        rw [bsteps_eight_builderSeed_snd]; exact BitVec.xor_zero.symm
    _ = registerStep^[8] ((builderSeed i).1 ^^^ (builderSeed i).2) :=
        (iterate_registerStep_xor_registers 8 (builderSeed i)).symm
    _ = registerStep^[8] (builderSeed i).2 := congrArg _ BitVec.zero_xor

theorem tentryOneRegister_eq_tentry (i : Byte) : tentryOneRegister i = tentry i := by
  calc tentryOneRegister i
    _ = registerStep^[8] (builderSeed i).2 := List.foldl_const registerStep _ (List.range 8)
    _ = tentry i := (tentry_eq_iterate i).symm

/-! ### Where a step of the register takes each bit -/

/-- Bit 0 is the bit that was tested, since bit 0 of the polynomial is 1. -/
theorem getLsbD_zero_registerStep (r : Word) : (registerStep r).getLsbD 0 = r.getLsbD 15 := by
  have polynomial : poly.getLsbD 0 = true := by decide
  have shifted : (shl16 r 1).getLsbD 0 = false := by simp [shl16]
  unfold registerStep
  split
  next h => rw [BitVec.getLsbD_xor, shifted, polynomial, h]; rfl
  next h => rw [shifted, Bool.eq_false_of_not_eq_true h]

/-- Every other bit comes from one place below, changed where the polynomial has a bit. -/
theorem getLsbD_succ_registerStep (r : Word) {k : Nat} (hk : k + 1 < 16) :
    (registerStep r).getLsbD (k + 1) = (r.getLsbD k ^^ (r.getLsbD 15 && poly.getLsbD (k + 1))) := by
  have shifted : (shl16 r 1).getLsbD (k + 1) = r.getLsbD k := by
    rw [shl16, BitVec.getLsbD_shiftLeft]
    simp only [hk, decide_true, Nat.add_sub_cancel, Nat.not_lt.2 (Nat.le_add_left 1 k), decide_false,
      Bool.not_false, Bool.true_and]
  unfold registerStep
  split
  next h => rw [BitVec.getLsbD_xor, shifted, h, Bool.true_and]
  next h => rw [shifted, Bool.eq_false_of_not_eq_true h, Bool.false_and, Bool.xor_false]

theorem registerStep_xor (a b : Word) : registerStep (a ^^^ b) = registerStep a ^^^ registerStep b := by
  apply BitVec.eq_of_getLsbD_eq
  intro k hk
  cases k with
  | zero => simp only [BitVec.getLsbD_xor, getLsbD_zero_registerStep]
  | succ k =>
    simp only [BitVec.getLsbD_xor, getLsbD_succ_registerStep _ hk, Bool.and_xor_distrib_right,
      Bool.xor_assoc, Bool.xor_left_comm]

/-- Bit 0 of the result gives back the tested bit, and with it the other bits. -/
theorem registerStep_injective : Function.Injective registerStep := by
  intro a b h
  have top : a.getLsbD 15 = b.getLsbD 15 := by
    rw [← getLsbD_zero_registerStep, ← getLsbD_zero_registerStep, h]
  apply BitVec.eq_of_getLsbD_eq
  intro k hk
  obtain rfl | hnext : k = 15 ∨ k + 1 < 16 := by omega
  · exact top
  · have bit := congrArg (BitVec.getLsbD · (k + 1)) h
    simpa only [getLsbD_succ_registerStep _ hnext, top, Bool.xor_left_inj] using bit

/-! ### Linearity and injectivity of the entries (R72) -/

theorem iterate_registerStep_xor (n : Nat) (a b : Word) :
    registerStep^[n] (a ^^^ b) = registerStep^[n] a ^^^ registerStep^[n] b :=
  have linear : Function.Semiconj₂ registerStep (· ^^^ ·) (· ^^^ ·) := registerStep_xor
  linear.iterate n a b

theorem tentry_xor (a b : Byte) : tentry (a ^^^ b) = tentry a ^^^ tentry b := by
  simp only [tentry_eq_iterate, builderSeed_snd_xor, iterate_registerStep_xor]

theorem tentry_injective : Function.Injective tentry := by
  intro a b h
  rw [tentry_eq_iterate, tentry_eq_iterate] at h
  exact builderSeed_snd_injective (registerStep_injective.iterate 8 h)

/-! ### Bit 15 of the entries (R72) -/

/-- An odd number of the `n` highest bits of `r` is set. -/
def topBitsOdd {w : Nat} (n : Nat) (r : BitVec w) : Bool := (List.range n).countP r.getMsbD % 2 == 1

theorem topBitsOdd_zero {w : Nat} (r : BitVec w) : topBitsOdd 0 r = false := rfl

theorem topBitsOdd_succ {w : Nat} (n : Nat) (r : BitVec w) :
    topBitsOdd (n + 1) r = (topBitsOdd n r ^^ r.getMsbD n) := by
  unfold topBitsOdd
  rw [List.range_succ, List.countP_append, List.countP_singleton]
  generalize (List.range n).countP r.getMsbD = c
  cases r.getMsbD n with
  | false => simp
  | true => rcases Nat.mod_two_eq_zero_or_one c with hc | hc <;> simp [Nat.add_mod, hc]

/-- The polynomial has no bit from 3 to 14: there a step only shifts. -/
theorem getLsbD_iterate_registerStep (n k : Nat) (r : Word) (hk : 2 ≤ k) (hn : k + n < 15) :
    (registerStep^[n] r).getLsbD (k + n) = r.getLsbD k := by
  have noPolynomial : ∀ j < 15, 2 < j → poly.getLsbD j = false := by decide
  induction n with
  | zero => rfl
  | succ n ih =>
    rw [Function.iterate_succ_apply', ← Nat.add_assoc, getLsbD_succ_registerStep _ (by omega),
      noPolynomial (k + n + 1) hn (by omega), Bool.and_false, Bool.xor_false, ih (by omega)]

/-- Bit 15 takes up one more of the register's bits in each step, as long as the polynomial's bit 2 has not
come so far. -/
theorem getLsbD_15_iterate_registerStep (n : Nat) (r : Word) (hn : n < 13) :
    (registerStep^[n] r).getLsbD 15 = topBitsOdd (n + 1) r := by
  have polynomial : poly.getLsbD 15 = true := by decide
  induction n with
  | zero => rw [topBitsOdd_succ, topBitsOdd_zero, Bool.false_xor]; rfl
  | succ n ih =>
    have next : r.getMsbD (n + 1) = r.getLsbD (14 - n) := by
      rw [BitVec.getMsbD, decide_eq_true (by omega), Bool.true_and, show 16 - 1 - (n + 1) = 14 - n by omega]
    have arrived := getLsbD_iterate_registerStep n (14 - n) r (by omega) (by omega)
    rw [Nat.sub_add_cancel (by omega)] at arrived
    rw [Function.iterate_succ_apply', getLsbD_succ_registerStep _ (by decide), polynomial, Bool.and_true,
      ih (by omega), arrived, topBitsOdd_succ (n + 1), next, Bool.xor_comm]

theorem getLsbD_15_tentry (i : Byte) :
    (tentry i).getLsbD 15 = ((List.range 8).countP i.getLsbD % 2 == 1) := by
  have seed : (builderSeed i).2.getMsbD = i.getMsbD := funext (getMsbD_builderSeed_snd i)
  have noNinthBit : i.getMsbD 8 = false := BitVec.getMsbD_of_ge i 8 (Nat.le_refl 8)
  have mirrored : (reflect8 i).getLsbD = i.getMsbD := by
    funext k
    rw [reflect8_eq_reverse, BitVec.getLsbD_reverse]
  rw [tentry_eq_iterate, getLsbD_15_iterate_registerStep _ _ (by decide), topBitsOdd_succ, topBitsOdd, seed,
    noNinthBit, Bool.xor_false, ← mirrored, countP_getLsbD_reflect8]

/-! ### The builder without truncation (R72) -/

/-- The two wide registers cut to 16 bits. -/
def truncated (p : Nat × Nat) : Word × Word := (BitVec.ofNat 16 p.1, BitVec.ofNat 16 p.2)

theorem ofNat_shiftLeft_eq_shl16 (a n : Nat) : BitVec.ofNat 16 (a <<< n) = shl16 (BitVec.ofNat 16 a) n := by
  apply BitVec.eq_of_toNat_eq
  simp [shl16, Nat.shiftLeft_eq]

theorem truncated_bstepWide (p : Nat × Nat) : truncated (bstepWide p) = bstep (truncated p) := by
  have tested : (p.1 ^^^ p.2).testBit 15 = ((truncated p).1 ^^^ (truncated p).2).getLsbD 15 := by
    rw [truncated, ← BitVec.ofNat_xor, BitVec.getLsbD_ofNat]; rfl
  unfold bstepWide bstep
  rw [tested]
  split <;> simp [truncated, ofNat_shiftLeft_eq_shl16, BitVec.ofNat_xor, poly]

theorem truncated_bstepsWide (n : Nat) (p : Nat × Nat) :
    truncated (bstepsWide n p) = bsteps n (truncated p) := by
  induction n generalizing p with
  | zero => rfl
  | succ n ih => rw [bstepsWide, ih, truncated_bstepWide, bsteps]

/-- Cutting off the high bits after the eight steps gives the entry as well. -/
theorem ofNat_tentryWide (i : Byte) : BitVec.ofNat 16 (tentryWide i) = tentry i := by
  have seed : truncated (0, i.toNat <<< 8) = builderSeed i := by
    rw [truncated, ofNat_shiftLeft_eq_shl16, BitVec.ofNat_toNat]; rfl
  rw [tentry, ← seed, ← truncated_bstepsWide]
  rfl

/-- All entries but the first two keep a bit above bit 15. -/
theorem lt_tentryWide_iff : ∀ i : Byte, 65535 < tentryWide i ↔ 2 ≤ i.toNat := by decide

theorem countP_le_range (m n : Nat) : (List.range n).countP (m ≤ ·) = n - m := by
  induction n with
  | zero => simp
  | succ n ih =>
    rw [List.range_succ, List.countP_append, ih, List.countP_singleton]
    simp only [decide_eq_true_eq]
    split <;> omega

theorem countP_overwide : (List.range 256).countP (fun i => 65535 < tentryWide (BitVec.ofNat 8 i)) = 254 := by
  have overwide {i : Nat} (hi : i < 256) : 65535 < tentryWide (BitVec.ofNat 8 i) ↔ 2 ≤ i := by
    rw [lt_tentryWide_iff, BitVec.toNat_ofNat, Nat.mod_eq_of_lt hi]
  calc (List.range 256).countP (fun i => 65535 < tentryWide (BitVec.ofNat 8 i))
    _ = (List.range 256).countP (2 ≤ ·) :=
        List.countP_congr fun i hi => by simp only [decide_eq_true_iff, overwide (List.mem_range.1 hi)]
    _ = 254 := countP_le_range 2 256

/-! ### The commands (R70, R71) -/

variable {s t : State}

theorem samePorts_raise (c : RspCode) (s : State) : SamePorts s (raise c s) := ⟨rfl, fun _ => rfl, rfl⟩

theorem sameArch_raise (c : RspCode) (s : State) : SameArch s (raise c s) := ⟨rfl, rfl, rfl, rfl⟩

theorem completes_tbuild (s : State) :
    Completes .tbuild s (respond 0x0000 (installTable builtTable s)) 0x0000 :=
  ⟨rfl, respond_responses .., samePorts_respond ..⟩

theorem exec_tbuild_tvalid (h : exec .tbuild s = .next t) : t.tvalid = true := by
  cases h; rfl

theorem completes_tread_of_built (idx : Byte) (h : s.tvalid = true) :
    Completes (.tread idx) s (respond (tableGet s.table idx) s) (tableGet s.table idx) :=
  ⟨requireTable_of_built h _, respond_responses .., samePorts_respond ..⟩

theorem raises_tread_of_unbuilt (idx : Byte) (h : s.tvalid = false) :
    Raises (.tread idx) s (raise .tableNotBuilt s) .tableNotBuilt :=
  ⟨requireTable_of_unbuilt h _, raise_responses .., samePorts_raise .., sameArch_raise ..⟩

theorem completes_tread_after_tbuild (idx : Byte) (h : exec .tbuild s = .next t) :
    ∃ u, Completes (.tread idx) t u (tentry idx) := by
  have entry : tableGet t.table idx = tentry idx := by rw [exec_tbuild_table h, tableGet_builtTable]
  rw [← entry]
  exact ⟨_, completes_tread_of_built idx (exec_tbuild_tvalid h)⟩

/-! ### The obligations -/

/-- Settles O12: the two branches of the bit-step, and the shift as arithmetic. -/
theorem bitStepRule : Obligations.BitStepRule :=
  fun acc _ => ⟨bstep_of_bit_set, bstep_of_bit_clear, toNat_shl16_one acc⟩

/-- Settles O13: the seed and the eight steps are the definition's; the working value is shifted by 16 in
all. -/
theorem entryIsEightBitSteps : Obligations.EntryIsEightBitSteps :=
  ⟨fun _ => rfl, fun _ => rfl, bsteps_eight_builderSeed_snd, by decide⟩

/-- Settles O14: the step of the one-register form is linear and injective, bit 15 collects the index's bits,
and truncation commutes with the steps; what the spec counts over the 256 entries is counted. -/
theorem entryFacts : Obligations.EntryFacts :=
  ⟨by decide, by decide, tentry_xor, tentry_injective, getLsbD_15_tentry, tentryOneRegister_eq_tentry,
    countP_overwide, by decide, ofNat_tentryWide⟩

/-- Settles O16: the only command with opcode 0x01 is TBUILD, and it ends in `respond` on the installed
table. -/
theorem tbuildBuildsTheTable : Obligations.TbuildBuildsTheTable := by
  refine ⟨by decide, fun w i hop hbits h => ?neighbours,
    fun s => ⟨_, completes_tbuild s, tableGet_builtTable, rfl, rfl, rfl⟩, by decide⟩
  case neighbours =>
    obtain ⟨hopcode, -, -⟩ := decode_eq_ok_iff.1 h
    obtain rfl := opcodeOf_eq_one_iff.1 (hopcode.symm.trans hop)
    exact hbits (extractLsb'_0_24_eq_zero_of_decode h rfl)

/-- Settles O17: TREAD behind the table guard, on either side of it; after a TBUILD the entries are
`TENTRY`'s. -/
theorem treadReturnsTheEntry : Obligations.TreadReturnsTheEntry := by
  refine ⟨fun idx => encode_eq_row_or_of_formatB 0x02 rfl (by decide) rfl,
    fun idx s h => ⟨_, completes_tread_of_built idx h, sameArch_respond ..⟩,
    fun idx s h => ⟨_, raises_tread_of_unbuilt idx h⟩, fun s t h => ?_⟩
  have first : tentry 0x00 = 0x0000 := by decide
  have other : tentry 0x82 = 0x030C := by decide
  rw [← first, ← other]
  exact ⟨completes_tread_after_tbuild 0x00 h, completes_tread_after_tbuild 0x82 h⟩

end Sys2Proof.Machine
end

section
/-! PROOF. The CRC engine (42_crc_engine.md R77 to R85): CRCINIT, the byte update and CRCUPD, the finalisation,
and CKSUM against the sequence of its parts. Each command has one lemma per way it can end; the sequence is
followed by a lemma on a run of CRCUPDs. -/

namespace Sys2Proof

theorem opcodeOf_eq_four_iff {i : Instr} : opcodeOf i = 0x04 ↔ i = .crcinit := by
  cases i <;> simp [opcodeOf]

end Sys2Proof

namespace Sys2Proof.Machine

/-! ### The bytes of a word (R9) -/

theorem setWidth_and_0xFF (w : Word) : (w &&& 0xFF).setWidth 8 = w.setWidth 8 := by
  have mask : (0xFF : Word).setWidth 8 = BitVec.allOnes 8 := by decide
  rw [BitVec.setWidth_and, mask, BitVec.and_allOnes]

theorem lowByte_eq_setWidth_mask (w : Word) : (w &&& 0xFF).setWidth 8 = lowByte w := by
  rw [setWidth_and_0xFF]
  rfl

theorem highByte_eq_setWidth_mask (w : Word) : ((w >>> 8) &&& 0xFF).setWidth 8 = highByte w := by
  rw [setWidth_and_0xFF, BitVec.setWidth_ushiftRight_eq_extractLsb, highByte]

theorem toNat_append_bytes (hi lo : Byte) : (hi ++ lo : Word).toNat = hi.toNat * 256 + lo.toNat := by
  rw [BitVec.toNat_append, ← Nat.shiftLeft_add_eq_or_of_lt lo.isLt, Nat.shiftLeft_eq]

theorem zext16_shiftLeft_or_zext16 (hi lo : Byte) : zext16 hi <<< 8 ||| zext16 lo = hi ++ lo := by
  rw [zext16, zext16, ← BitVec.setWidth_append_eq_shiftLeft_setWidth_or, BitVec.setWidth_eq]

/-- The sum of a byte moved up and a byte is below 65536: nothing carries out of it. -/
theorem zext16_shiftLeft_add_zext16 (hi lo : Byte) : zext16 hi <<< 8 + zext16 lo = hi ++ lo := by
  apply BitVec.eq_of_toNat_eq
  have := hi.isLt
  have := lo.isLt
  rw [toNat_append_bytes, BitVec.toNat_add, BitVec.toNat_shiftLeft, Nat.shiftLeft_eq, zext16, zext16,
    BitVec.toNat_setWidth, BitVec.toNat_setWidth]
  omega

/-! ### The byte update (R78) -/

/-- Only the low byte moves up: the shift and then the mask keep the same bits as the mask and then the shift. -/
theorem shl16_eight_and_0xFF00 (crc : Word) : shl16 crc 8 &&& (0xFF00 : Word) = (crc &&& 0xFF) <<< 8 := by
  have mask : (0xFF : Word) <<< 8 = 0xFF00 := by decide
  rw [BitVec.shiftLeft_and_distrib, mask, shl16]

/-- On naturals the mask alone discards what the shift moves above bit 15 (C1). -/
theorem toNat_shl16_eight_and_0xFF00 (crc : Word) :
    (shl16 crc 8 &&& 0xFF00).toNat = (crc.toNat <<< 8) &&& 0xFF00 := by
  have bounded : (crc.toNat <<< 8) &&& 0xFF00 < 2 ^ 16 := Nat.and_lt_two_pow _ (by decide)
  calc (shl16 crc 8 &&& 0xFF00).toNat
    _ = (crc.toNat <<< 8) % 2 ^ 16 &&& 0xFF00 % 2 ^ 16 := by
        rw [shl16, BitVec.toNat_and, BitVec.toNat_shiftLeft]; rfl
    _ = ((crc.toNat <<< 8) &&& 0xFF00) % 2 ^ 16 := Nat.and_mod_two_pow.symm
    _ = (crc.toNat <<< 8) &&& 0xFF00 := Nat.mod_eq_of_lt bounded

theorem upd_builtTable (crc : Word) (b : Byte) :
    upd builtTable crc b = (shl16 crc 8 &&& 0xFF00) ^^^ tentry (tableIndex crc (reflect8 b)) := by
  rw [upd, tableGet_builtTable]

/-- R79: a fresh accumulator gives the entry at the reflected byte. -/
theorem upd_builtTable_zero (b : Byte) : upd builtTable 0x0000 b = tentry (reflect8 b) := by
  have moved : shl16 0x0000 8 &&& 0xFF00 = 0 := by decide
  have high : highByte 0x0000 = 0 := by decide
  rw [upd_builtTable, moved, tableIndex, high]
  exact BitVec.zero_xor.trans (congrArg tentry BitVec.zero_xor)

/-! ### The finalisation (R80) -/

theorem fin_eq_append (crc : Word) : fin crc = reflect8 (lowByte crc) ++ reflect8 (highByte crc) := by
  rw [fin, zext16_shiftLeft_add_zext16]
  exact BitVec.xor_zero

/-! ### CRCINIT, CRCUPD and CRCFIN (R77, R79, R81) -/

variable {s t : State}

theorem completes_crcinit (s : State) :
    Completes .crcinit s (respond 0x0000 (openAccumulator crcStart s)) 0x0000 :=
  ⟨rfl, respond_responses .., samePorts_respond ..⟩

theorem completes_crcupd (b : Byte) (hlive : s.cvalid = true) (hbuilt : s.tvalid = true) :
    Completes (.crcupd b) s (respond 0x0000 (setAccumulator (upd s.table s.crc b) s)) 0x0000 :=
  ⟨(requireAccumulator_of_live hlive _).trans (requireTable_of_built hbuilt _), respond_responses ..,
    samePorts_respond ..⟩

/-- R100: whatever TVALID is, it is the accumulator's fault that is reported. -/
theorem raises_crcupd_of_not_live (b : Byte) (hlive : s.cvalid = false) :
    Raises (.crcupd b) s (raise .accNotInit s) .accNotInit :=
  ⟨requireAccumulator_of_not_live hlive _, raise_responses .., samePorts_raise .., sameArch_raise ..⟩

theorem raises_crcupd_of_unbuilt (b : Byte) (hlive : s.cvalid = true) (hbuilt : s.tvalid = false) :
    Raises (.crcupd b) s (raise .tableNotBuilt s) .tableNotBuilt :=
  ⟨(requireAccumulator_of_live hlive _).trans (requireTable_of_unbuilt hbuilt _), raise_responses ..,
    samePorts_raise .., sameArch_raise ..⟩

theorem completes_crcfin (hlive : s.cvalid = true) :
    Completes .crcfin s (respond (fin s.crc) (closeAccumulator s)) (fin s.crc) :=
  ⟨requireAccumulator_of_live hlive _, respond_responses .., samePorts_respond ..⟩

/-! ### CKSUM (R83) -/

/-- The accumulator that `CKSUM n` folds out of the first `n` bytes of the buffer. -/
def bufSum (n : Nat) (s : State) : Word := (bufPrefix n s).foldl (upd s.table) crcStart

/-- Both checks pass: the length fits the buffer, and it is 0 or the table is built (R97, C8). -/
theorem completes_cksum {len : Word} (hfits : len.toNat ≤ s.bufSize) (h : len = 0 ∨ s.tvalid = true) :
    Completes (.cksum len) s
      (respond (fin (bufSum len.toNat s)) (closeAccumulator (setAccumulator (bufSum len.toNat s) s)))
      (fin (bufSum len.toNat s)) := by
  have checked : execCksum len s = sumAndRespond len s := by
    rw [execCksum, if_neg (Nat.not_lt.2 hfits)]
    split
    next => rfl
    next hlen => exact requireTable_of_built (h.resolve_left hlen) _
  exact ⟨checked.trans (sumAndRespond_eq hfits), respond_responses .., samePorts_respond ..⟩

theorem raises_cksum_of_unbuilt {len : Word} (hfits : len.toNat ≤ s.bufSize) (hlen : len ≠ 0)
    (hbuilt : s.tvalid = false) : Raises (.cksum len) s (raise .tableNotBuilt s) .tableNotBuilt := by
  have checked : execCksum len s = .next (raise .tableNotBuilt s) := by
    rw [execCksum, if_neg (Nat.not_lt.2 hfits), if_neg hlen, requireTable_of_unbuilt hbuilt]
  exact ⟨checked, raise_responses .., samePorts_raise .., sameArch_raise ..⟩

theorem length_bufPrefix (n : Nat) (s : State) : (bufPrefix n s).length = n := by
  rw [bufPrefix, List.length_map, List.length_range]

/-! ### Lists of commands (R123) -/

theorem execAll_cons_of_next {i : Instr} {is : List Instr} (h : exec i s = .next t) :
    execAll (i :: is) s = execAll is t := by
  rw [execAll, h]

theorem execAll_append_of_next {is js : List Instr} (h : execAll is s = .next t) :
    execAll (is ++ js) s = execAll js t := by
  induction is generalizing s with
  | nil => cases h; rfl
  | cons i is ih =>
    rw [execAll] at h
    split at h
    next u hu => rw [List.cons_append, execAll_cons_of_next hu, ih h]
    all_goals cases h

theorem Answered.lastResponse {r : Response} (h : Answered s t r) : lastResponse t = some r := by
  rw [Machine.lastResponse, h, List.getLast?_concat]

/-- A CRCUPD per byte, with the accumulator live and the table built: the accumulator is the fold of `upd` over
the bytes, each gets its response, and the flags and the table stay. -/
theorem execAll_map_crcupd (bytes : List Byte) (hlive : s.cvalid = true) (hbuilt : s.tvalid = true) :
    ∃ t, execAll (bytes.map .crcupd) s = .next t ∧ t.crc = bytes.foldl (upd s.table) s.crc ∧
      t.cvalid = true ∧ SameTable s t ∧ t.responses.length = s.responses.length + bytes.length := by
  induction bytes generalizing s with
  | nil => exact ⟨s, rfl, rfl, hlive, ⟨rfl, rfl⟩, rfl⟩
  | cons b bs ih =>
    obtain ⟨hexec, hanswered, -⟩ := completes_crcupd b hlive hbuilt
    obtain ⟨t, hrun, hcrc, hcvalid, hsame, hlength⟩ :=
      ih (s := respond 0x0000 (setAccumulator (upd s.table s.crc b) s)) hlive hbuilt
    refine ⟨t, (execAll_cons_of_next hexec).trans hrun, hcrc, hcvalid, hsame, ?_⟩
    rw [hlength, hanswered, List.length_append, List.length_singleton, List.length_cons]
    omega

/-- R84: CRCINIT, a CRCUPD per byte and CRCFIN, with the table built. -/
theorem execAll_invocation (bytes : List Byte) (hbuilt : s.tvalid = true) :
    ∃ t, execAll (.crcinit :: bytes.map .crcupd ++ [.crcfin]) s = .next t ∧
      lastResponse t = some ⟨.ok, fin (bytes.foldl (upd s.table) crcStart)⟩ ∧
      t.responses.length = s.responses.length + bytes.length + 2 ∧ t.cvalid = false ∧ SameTable s t := by
  obtain ⟨hinit, hinitAnswered, -⟩ := completes_crcinit s
  obtain ⟨u, hrun, hcrc, hlive, hsame, hlength⟩ :=
    execAll_map_crcupd (s := respond 0x0000 (openAccumulator crcStart s)) bytes rfl hbuilt
  obtain ⟨hfin, hfinAnswered, -⟩ := completes_crcfin hlive
  have run : execAll (.crcinit :: bytes.map .crcupd ++ [.crcfin]) s =
      .next (respond (fin u.crc) (closeAccumulator u)) := by
    rw [List.cons_append, execAll_cons_of_next hinit, execAll_append_of_next hrun, execAll_cons_of_next hfin,
      execAll]
  have last : fin u.crc = fin (bytes.foldl (upd s.table) crcStart) := congrArg fin hcrc
  refine ⟨_, run, hfinAnswered.lastResponse.trans (by rw [last]), ?_, rfl, hsame⟩
  rw [hfinAnswered, List.length_append, hlength, hinitAnswered, List.length_append, List.length_singleton,
    List.length_singleton]
  omega

/-! ### The obligations -/

/-- Settles O21: the shift and the mask change places, and the masked high byte is the index's. -/
theorem byteUpdateRule : Obligations.ByteUpdateRule := by
  intro t crc b
  rw [highByte_eq_setWidth_mask, ← shl16_eight_and_0xFF00, ← toNat_shl16_eight_and_0xFF00]
  exact ⟨rfl, BitVec.toNat_xor ..⟩

/-- Settles O22: CRCUPD behind its two guards, on each side of both; the values by the entries they read. -/
theorem crcupdFeedsOneByte : Obligations.CrcupdFeedsOneByte := by
  refine ⟨fun b => encode_eq_row_or_of_formatB 0x05 rfl (by decide) rfl,
    fun b s hlive hbuilt => ⟨_, completes_crcupd b hlive hbuilt, rfl, hlive, hbuilt, rfl⟩,
    fun b s hlive => ⟨_, raises_crcupd_of_not_live b hlive⟩,
    fun b s hlive hbuilt => ⟨_, raises_crcupd_of_unbuilt b hlive hbuilt⟩, upd_builtTable_zero, ?values⟩
  case values => simp only [upd_builtTable]; decide

/-- Settles O23: the result is the two reflected bytes side by side, of which the sum and the OR are two other
forms. -/
theorem finalisationRule : Obligations.FinalisationRule := by
  intro crc
  rw [lowByte_eq_setWidth_mask, highByte_eq_setWidth_mask, zext16_shiftLeft_or_zext16]
  refine ⟨rfl, fin_eq_append crc, ?_⟩
  rw [fin_eq_append, toNat_append_bytes]

/-- Settles O30: CKSUM and the sequence fold `upd` over the same bytes; with the table not built both stop at
the table guard, CKSUM itself and the sequence after its CRCINIT. -/
theorem cksumEqualsItsParts : Obligations.CksumEqualsItsParts := by
  refine ⟨fun len s hbuilt hfits => ?_, fun len s b hbuilt hfits hpos => ?_⟩
  · obtain ⟨hexec, hanswered, -⟩ := completes_cksum hfits (.inr hbuilt)
    obtain ⟨u, hrun, hlast, hlength, hcvalid, htable, htvalid⟩ :=
      execAll_invocation (bufPrefix len.toNat s) hbuilt
    rw [length_bufPrefix] at hlength
    exact ⟨_, u, hexec, hrun, hanswered.lastResponse.trans hlast.symm, hlength, rfl, hcvalid, rfl, htable, rfl,
      htvalid⟩
  · have hlen : len ≠ 0 := by rintro rfl; exact absurd hpos (by decide)
    exact ⟨⟨_, raises_cksum_of_unbuilt hfits hlen hbuilt⟩, _, _, completes_crcinit s, rfl,
      raises_crcupd_of_unbuilt b rfl hbuilt⟩

/-- Settles O20: the only command with opcode 0x04 is CRCINIT, and it ends in `respond` on the opened
accumulator, whatever the accumulator was. -/
theorem crcinitOpensAnInvocation : Obligations.CrcinitOpensAnInvocation := by
  refine ⟨by decide, fun w i hop hbits h => ?neighbours,
    fun s => ⟨_, completes_crcinit s, rfl, rfl, rfl, rfl⟩, fun s t u ht hu => ?second, fun t ht => ?reset⟩
  case neighbours =>
    obtain ⟨hopcode, -, -⟩ := decode_eq_ok_iff.1 h
    obtain rfl := opcodeOf_eq_four_iff.1 (hopcode.symm.trans hop)
    exact hbits (extractLsb'_0_24_eq_zero_of_decode h rfl)
  case second => cases ht; cases hu; exact ⟨rfl, rfl, rfl, rfl⟩
  case reset => cases ht; rfl

/-- Settles O28: no byte is read and no table needed, and the finalisation of 0x0000 is 0x0000. -/
theorem emptyChecksumIsZero : Obligations.EmptyChecksumIsZero := by
  have finalised : fin crcStart = 0x0000 := by decide
  refine ⟨finalised, fun s => ?_⟩
  have completes := completes_cksum (len := 0) (Nat.zero_le s.bufSize) (.inl rfl)
  have nothing : bufSum (0 : Word).toNat s = crcStart := rfl
  rw [nothing, finalised] at completes
  exact ⟨_, completes⟩

end Sys2Proof.Machine
end

section
/-! PROOF. The status register and STAT (43_system.md R91): what each of TBUILD, CRCINIT and CRCFIN leaves in
the two flags, and the value of STATUS by the flags. -/

namespace Sys2Proof.Machine

variable {s t : State}

/-! ### CVALID after a command (R22) -/

theorem exec_tbuild_cvalid (h : exec .tbuild s = .next t) : t.cvalid = s.cvalid := by
  cases h; rfl

theorem exec_crcinit_cvalid (h : exec .crcinit s = .next t) : t.cvalid = true := by
  cases h; rfl

/-- CRCFIN closes a live accumulator, and its fault leaves one that is not live. -/
theorem exec_crcfin_cvalid (h : exec .crcfin s = .next t) : t.cvalid = false := by
  cases hlive : s.cvalid with
  | true =>
    obtain ⟨hexec, -, -⟩ := completes_crcfin hlive
    cases hexec.symm.trans h
    rfl
  | false =>
    have hexec : exec .crcfin s = .next (raise .accNotInit s) := requireAccumulator_of_not_live hlive _
    cases hexec.symm.trans h
    exact hlive

/-! ### STATUS and STAT (R23, R91) -/

theorem statusWord_of_flags {c b : Bool} (hlive : s.cvalid = c) (hbuilt : s.tvalid = b) :
    statusWord s = flagBit c <<< 1 ||| flagBit b := by
  rw [statusWord, hlive, hbuilt]

theorem completes_stat (s : State) : Completes .stat s (respond (statusWord s) s) (statusWord s) :=
  ⟨rfl, respond_responses .., samePorts_respond ..⟩

/-! ### The obligation -/

/-- Settles O32: STAT ends in `respond` on the state as it was; the value is a table of the two flags; along
the worked example each command's effect on the flags gives the next value. -/
theorem statReturnsTheStatus : Obligations.StatReturnsTheStatus := by
  refine ⟨by decide, fun s => ⟨_, completes_stat s, sameArch_respond ..⟩, fun s => ?values,
    fun t u v ht hu hv => ?chain⟩
  case values =>
    rw [statusWord]
    cases s.cvalid <;> cases s.tvalid <;> rfl
  case chain =>
    have builtT : t.tvalid = true := exec_tbuild_tvalid ht
    have closedT : t.cvalid = false := exec_tbuild_cvalid ht
    have liveU : u.cvalid = true := exec_crcinit_cvalid hu
    have closedV : v.cvalid = false := exec_crcfin_cvalid hv
    obtain ⟨-, sameU⟩ := exec_sameTable (by decide) hu
    obtain ⟨-, sameV⟩ := exec_sameTable (by decide) hv
    have builtU : u.tvalid = true := sameU.trans builtT
    have builtV : v.tvalid = true := sameV.trans builtU
    exact ⟨rfl, statusWord_of_flags closedT builtT, statusWord_of_flags liveU builtU,
      statusWord_of_flags closedV builtV⟩

end Sys2Proof.Machine
end

section
/-! PROOF. The faults (60_exceptions.md R93 to R97): which words raise IllegalCommand, and with which code each
command ends, by the conditions that its checks look at. -/

namespace Sys2Proof.Machine

variable {s t : State} {w : CommandWord} {i : Instr} {rest : List HostInput}

/-! ### Words that spell no command (R95) -/

/-- R53: a word that decodes to a command is matched by that command's row. -/
theorem matchesRow_of_decode (h : decode w = .ok i) : MatchesRow w := by
  obtain ⟨tbuild, tread, refl8, crcinit, crcupd, crcfin, cksum, stat⟩ := opcodeMapRowsByMatchAndMask
  cases i with
  | tbuild => simp only [MatchesRow, (tbuild w).1 h, true_or]
  | tread idx => simp only [MatchesRow, (tread w idx).1 h, true_or, or_true]
  | refl8 v => simp only [MatchesRow, (refl8 w v).1 h, true_or, or_true]
  | crcinit => simp only [MatchesRow, (crcinit w).1 h, true_or, or_true]
  | crcupd b => simp only [MatchesRow, (crcupd w b).1 h, true_or, or_true]
  | crcfin => simp only [MatchesRow, (crcfin w).1 h, true_or, or_true]
  | cksum len => simp only [MatchesRow, (cksum w len).1 h, true_or, or_true]
  | stat => simp only [MatchesRow, (stat w).1 h, or_true]

theorem step_of_illegal_word (hin : s.hostInputs = .command w :: rest) (hw : ∀ i, decode w ≠ .ok i) :
    step s = .next (raise .illegalCommand { s with hostInputs := rest }) := by
  rw [step_of_command hin]
  split
  next i hi => exact absurd hi (hw i)
  next => rfl

/-! ### Faults of CRCFIN and CKSUM (R96, R99) -/

/-- R96: the bounds are checked before anything else. -/
theorem raises_cksum_of_out_of_bounds {len : Word} (h : s.bufSize < len.toNat) :
    Raises (.cksum len) s (raise .boundsError s) .boundsError := by
  have checked : execCksum len s = .next (raise .boundsError s) := if_pos h
  exact ⟨checked, raise_responses .., samePorts_raise .., sameArch_raise ..⟩

theorem raises_crcfin_of_not_live (hlive : s.cvalid = false) :
    Raises .crcfin s (raise .accNotInit s) .accNotInit :=
  ⟨requireAccumulator_of_not_live hlive _, raise_responses .., samePorts_raise .., sameArch_raise ..⟩

/-! ### The code a command ends with (R94) -/

/-- The command answers a next state, and its one response there has the code `code`. -/
def EndsWith (i : Instr) (s : State) (code : RspCode) : Prop :=
  ∃ t d, exec i s = .next t ∧ Answered s t ⟨code, d⟩

theorem Completes.endsWith {d : Word} (h : Completes i s t d) : EndsWith i s .ok := by
  obtain ⟨hexec, hanswered, -⟩ := h
  exact ⟨t, d, hexec, hanswered⟩

theorem Raises.endsWith {code : RspCode} (h : Raises i s t code) : EndsWith i s code := by
  obtain ⟨hexec, hanswered, -⟩ := h
  exact ⟨t, 0x0000, hexec, hanswered⟩

theorem endsWith_tread (idx : Byte) (s : State) :
    EndsWith (.tread idx) s (if s.tvalid then .ok else .tableNotBuilt) := by
  cases hbuilt : s.tvalid with
  | true => exact (completes_tread_of_built idx hbuilt).endsWith
  | false => exact (raises_tread_of_unbuilt idx hbuilt).endsWith

theorem endsWith_crcupd (b : Byte) (s : State) :
    EndsWith (.crcupd b) s
      (if s.cvalid then (if s.tvalid then .ok else .tableNotBuilt) else .accNotInit) := by
  cases hlive : s.cvalid with
  | false => exact (raises_crcupd_of_not_live b hlive).endsWith
  | true =>
    cases hbuilt : s.tvalid with
    | true => exact (completes_crcupd b hlive hbuilt).endsWith
    | false => exact (raises_crcupd_of_unbuilt b hlive hbuilt).endsWith

theorem endsWith_crcfin (s : State) : EndsWith .crcfin s (if s.cvalid then .ok else .accNotInit) := by
  cases hlive : s.cvalid with
  | true => exact (completes_crcfin hlive).endsWith
  | false => exact (raises_crcfin_of_not_live hlive).endsWith

/-- A length of 0 needs neither the table nor a byte (R97, C8), so it always completes. -/
theorem endsWith_cksum (len : Word) (s : State) :
    EndsWith (.cksum len) s
      (if s.bufSize < len.toNat then .boundsError
        else if 1 ≤ len.toNat ∧ s.tvalid = false then .tableNotBuilt else .ok) := by
  have hzero : len = 0 ↔ ¬ 1 ≤ len.toNat := by
    rw [Nat.not_le, Nat.lt_one_iff]
    exact BitVec.toNat_eq
  split
  next hbounds => exact (raises_cksum_of_out_of_bounds hbounds).endsWith
  next hbounds =>
    have hfits : len.toNat ≤ s.bufSize := Nat.not_lt.1 hbounds
    split
    next hunbuilt =>
      obtain ⟨hpos, hunbuilt⟩ := hunbuilt
      exact (raises_cksum_of_unbuilt hfits (fun h => hzero.1 h hpos) hunbuilt).endsWith
    next hready =>
      have ready : len = 0 ∨ s.tvalid = true := by
        rwa [not_and_or, ← hzero, Bool.not_eq_false] at hready
      exact (completes_cksum hfits ready).endsWith

/-! ### The obligations -/

/-- Settles O7: a word that no row matches decodes to no command, and the step then raises on the state with
the word taken. -/
theorem illegalWordRaisesIllegalCommand : Obligations.IllegalWordRaisesIllegalCommand := by
  intro s w rest hin hrow
  have illegal : ∀ i, decode w ≠ .ok i := fun _ h => hrow (matchesRow_of_decode h)
  exact ⟨_, step_of_illegal_word hin illegal, raise_responses .., rfl, sameArch_raise .., samePorts_raise ..⟩

/-- Settles O33: the rows of the matrix, one command after the other; the four commands with a blank row
complete in every state. -/
theorem faultMatrix : Obligations.FaultMatrix := by
  refine ⟨fun i s => ?rows, fun s w rest hin hw => ⟨_, step_of_illegal_word hin hw, raise_responses ..⟩,
    rfl, rfl, rfl, rfl, rfl⟩
  case rows =>
    cases i with
    | tbuild => exact (completes_tbuild s).endsWith
    | tread idx => exact endsWith_tread idx s
    | refl8 v => exact (completes_refl8 v s).endsWith
    | crcinit => exact (completes_crcinit s).endsWith
    | crcupd b => exact endsWith_crcupd b s
    | crcfin => exact endsWith_crcfin s
    | cksum len => exact endsWith_cksum len s
    | stat => exact (completes_stat s).endsWith

end Sys2Proof.Machine
end

section
/-! PROOF. One invocation at a time (70_reset_and_hazards.md R116): what CRCINIT, a completed CKSUM and the
commands outside the engine leave in the one accumulator. -/

namespace Sys2Proof.Machine

variable {s t : State} {i : Instr} {d : Word}

/-! ### A completed command has raised nothing (R93) -/

theorem Completes.ne_raise {c : RspCode} (h : Completes i s t d) (hc : c ≠ .ok) : t ≠ raise c s := by
  rintro rfl
  obtain ⟨-, hanswered, -⟩ := h
  have sameResponse : [Response.mk c 0x0000] = [⟨.ok, d⟩] := List.append_cancel_left hanswered
  cases sameResponse
  exact hc rfl

/-- R22, R83: of the ways a CKSUM can end only the one that closes the accumulator answers OK. -/
theorem Completes.cksum_cvalid {len : Word} (h : Completes (.cksum len) s t d) : t.cvalid = false := by
  have ⟨hexec, _, _⟩ := h
  obtain hsum | hbounds | hunbuilt := execCksum_cases hexec
  · obtain ⟨crc, rfl⟩ := sumAndRespond_cases hsum
    rfl
  · exact absurd hbounds (h.ne_raise (by decide))
  · exact absurd hunbuilt (h.ne_raise (by decide))

/-! ### CRC and CVALID -/

theorem exec_crcinit_crc (h : exec .crcinit s = .next t) : t.crc = crcStart := by
  cases h; rfl

/-- CRC and CVALID are the same in both states: the part of `SameArch` that an open invocation consists of. -/
def SameAccumulator (s t : State) : Prop := t.crc = s.crc ∧ t.cvalid = s.cvalid

/-- The commands that leave an open invocation as it is: those outside the engine (R27). -/
def OutsideEngine (i : Instr) : Prop :=
  i = .tbuild ∨ (∃ idx, i = .tread idx) ∨ (∃ v, i = .refl8 v) ∨ i = .stat

/-- They leave CRC and CVALID, the fault of TREAD included (R98). -/
theorem exec_sameAccumulator (hi : OutsideEngine i) (h : exec i s = .next t) : SameAccumulator s t := by
  obtain rfl | ⟨idx, rfl⟩ | ⟨v, rfl⟩ | rfl := hi
  case inr.inl =>
    obtain h | rfl := requireTable_cases h
    · cases h; exact ⟨rfl, rfl⟩
    · exact ⟨rfl, rfl⟩
  all_goals cases h; exact ⟨rfl, rfl⟩

/-! ### The obligation -/

/-- Settles O50: CRCINIT opens at the start value; a CKSUM that completes has closed the accumulator, and both
commands that need a live one then raise; the commands outside the engine leave it. -/
theorem oneInvocationAtATime : Obligations.OneInvocationAtATime := by
  refine ⟨fun s t h => ⟨exec_crcinit_crc h, exec_crcinit_cvalid h⟩, fun len s t d h => ?closed,
    fun i s t hi h => exec_sameAccumulator hi h⟩
  case closed =>
    have notLive : t.cvalid = false := h.cksum_cvalid
    exact ⟨notLive, fun b => ⟨_, raises_crcupd_of_not_live b notLive⟩, _, raises_crcfin_of_not_live notLive⟩

end Sys2Proof.Machine
end

section
/-! PROOF. How a command ends, said once for all commands and for every presented word: with the fault that its
checks find, on the state as it was, or with its result, on the state with its writes made. The frames, the
fault laws, the invariants and the indifference to unspecified values follow from that (10_state.md R26, R27,
R31; 60_exceptions.md R93 to R103; 70_reset_and_hazards.md R112, R122 to R124). -/

namespace Sys2Proof.Machine

variable {s s' t t' : State} {i j : Instr} {w : CommandWord} {rest : List HostInput} {r : Response}

/-! ### The end of a command -/

/-- The fault that the checks of a command find, in their order (R94, R100). -/
def faultOf : Instr → State → Option RspCode
  | .tread _, s => if s.tvalid then none else some .tableNotBuilt
  | .crcupd _, s =>
    if s.cvalid then (if s.tvalid then none else some .tableNotBuilt) else some .accNotInit
  | .crcfin, s => if s.cvalid then none else some .accNotInit
  | .cksum len, s =>
    if s.bufSize < len.toNat then some .boundsError
    else if len = 0 ∨ s.tvalid = true then none else some .tableNotBuilt
  | .tbuild, _ | .refl8 _, _ | .crcinit, _ | .stat, _ => none

/-- The response data of a command that completes. -/
def resultOf : Instr → State → Word
  | .tread idx, s => tableGet s.table idx
  | .refl8 v, _ => zext16 (reflect8 v)
  | .crcfin, s => fin s.crc
  | .cksum len, s => fin (bufSum len.toNat s)
  | .stat, s => statusWord s
  | .tbuild, _ | .crcinit, _ | .crcupd _, _ => 0x0000

/-- The state with the writes of a command that completes (R27). -/
def writesOf : Instr → State → State
  | .tbuild, s => installTable builtTable s
  | .crcinit, s => openAccumulator crcStart s
  | .crcupd b, s => setAccumulator (upd s.table s.crc b) s
  | .crcfin, s => closeAccumulator s
  | .cksum len, s => closeAccumulator (setAccumulator (bufSum len.toNat s) s)
  | .tread _, s | .refl8 _, s | .stat, s => s

/-- The state that a command ends in. -/
def commandEnd (i : Instr) (s : State) : State :=
  match faultOf i s with
  | none => respond (resultOf i s) (writesOf i s)
  | some c => raise c s

theorem commandEnd_of_completes (h : faultOf i s = none) :
    commandEnd i s = respond (resultOf i s) (writesOf i s) := by
  rw [commandEnd, h]

theorem commandEnd_of_raises {c : RspCode} (h : faultOf i s = some c) : commandEnd i s = raise c s := by
  rw [commandEnd, h]

theorem exec_eq_of_completes (hf : faultOf i s = none)
    (h : Completes i s (respond (resultOf i s) (writesOf i s)) (resultOf i s)) :
    exec i s = .next (commandEnd i s) := by
  obtain ⟨hexec, -, -⟩ := h
  rw [hexec, commandEnd_of_completes hf]

theorem exec_eq_of_raises {c : RspCode} (hf : faultOf i s = some c) (h : Raises i s (raise c s) c) :
    exec i s = .next (commandEnd i s) := by
  obtain ⟨hexec, -, -, -⟩ := h
  rw [hexec, commandEnd_of_raises hf]

/-- Every command answers a next state, and it is `commandEnd`: no command stops the machine or is refused. -/
theorem exec_eq_next (i : Instr) (s : State) : exec i s = .next (commandEnd i s) := by
  cases i with
  | tbuild => exact exec_eq_of_completes rfl (completes_tbuild s)
  | refl8 v => exact exec_eq_of_completes rfl (completes_refl8 v s)
  | crcinit => exact exec_eq_of_completes rfl (completes_crcinit s)
  | stat => exact exec_eq_of_completes rfl (completes_stat s)
  | tread idx =>
    cases hbuilt : s.tvalid with
    | true => exact exec_eq_of_completes (by simp [faultOf, hbuilt]) (completes_tread_of_built idx hbuilt)
    | false => exact exec_eq_of_raises (by simp [faultOf, hbuilt]) (raises_tread_of_unbuilt idx hbuilt)
  | crcupd b =>
    cases hlive : s.cvalid with
    | false => exact exec_eq_of_raises (by simp [faultOf, hlive]) (raises_crcupd_of_not_live b hlive)
    | true =>
      cases hbuilt : s.tvalid with
      | true =>
        exact exec_eq_of_completes (by simp [faultOf, hlive, hbuilt]) (completes_crcupd b hlive hbuilt)
      | false =>
        exact exec_eq_of_raises (by simp [faultOf, hlive, hbuilt]) (raises_crcupd_of_unbuilt b hlive hbuilt)
  | crcfin =>
    cases hlive : s.cvalid with
    | true => exact exec_eq_of_completes (by simp [faultOf, hlive]) (completes_crcfin hlive)
    | false => exact exec_eq_of_raises (by simp [faultOf, hlive]) (raises_crcfin_of_not_live hlive)
  | cksum len =>
    by_cases hbounds : s.bufSize < len.toNat
    · exact exec_eq_of_raises (if_pos hbounds) (raises_cksum_of_out_of_bounds hbounds)
    · have hfits : len.toNat ≤ s.bufSize := Nat.not_lt.1 hbounds
      by_cases hready : len = 0 ∨ s.tvalid = true
      · exact exec_eq_of_completes (by simp only [faultOf, hbounds, hready, if_true, if_false])
          (completes_cksum hfits hready)
      · have hfault : faultOf (.cksum len) s = some .tableNotBuilt := by
          simp only [faultOf, hbounds, hready, if_false]
        rw [not_or, Bool.not_eq_true] at hready
        obtain ⟨hlen, hunbuilt⟩ := hready
        exact exec_eq_of_raises hfault (raises_cksum_of_unbuilt hfits hlen hunbuilt)

theorem exec_eq_next_iff : exec i s = .next t ↔ t = commandEnd i s := by
  rw [exec_eq_next, Host.Outcome.next.injEq, eq_comm]

/-! ### The end of a presented word -/

/-- The state that a presented word ends in, the word taken: its command's, or IllegalCommand (R95). -/
def wordEnd (w : CommandWord) (s : State) : State :=
  match decode w with
  | .ok i => commandEnd i s
  | .error _ => raise .illegalCommand s

theorem step_of_word (h : s.hostInputs = .command w :: rest) :
    step s = .next (wordEnd w { s with hostInputs := rest }) := by
  rw [step_of_command h, wordEnd]
  cases decode w with
  | ok i => exact exec_eq_next i _
  | error e => rfl

theorem wordEnd_cases (w : CommandWord) (s : State) :
    (∃ i, decode w = .ok i ∧ wordEnd w s = commandEnd i s) ∨ wordEnd w s = raise .illegalCommand s := by
  rw [wordEnd]
  cases decode w with
  | ok i => exact .inl ⟨i, rfl, rfl⟩
  | error e => exact .inr rfl

/-- What a step is, by the host's next input: nothing, a reset, a buffer change or the end of a word. -/
theorem step_cases (h : step s = .next t) :
    t = s ∨
    (∃ rest, s.hostInputs = .reset :: rest ∧ t = applyReset { s with hostInputs := rest }) ∨
    (∃ bytes rest, t = supplyBuffer bytes { s with hostInputs := rest }) ∨
    ∃ w rest, t = wordEnd w { s with hostInputs := rest } := by
  cases hin : s.hostInputs with
  | nil => cases (step_of_no_input hin).symm.trans h; exact .inl rfl
  | cons x rest =>
    cases x with
    | reset => cases (step_of_reset hin).symm.trans h; exact .inr (.inl ⟨rest, rfl, rfl⟩)
    | supplyBuffer bytes =>
      cases (step_of_supplyBuffer hin).symm.trans h; exact .inr (.inr (.inl ⟨bytes, rest, rfl⟩))
    | command w => cases (step_of_word hin).symm.trans h; exact .inr (.inr (.inr ⟨w, rest, rfl⟩))

/-! ### Frames: the buffer and the inputs -/

/-- The buffer is held as the same data in both states. -/
def SameBuffer (s t : State) : Prop := t.buf = s.buf ∧ t.bufSize = s.bufSize

theorem writesOf_sameBuffer (i : Instr) (s : State) : SameBuffer s (writesOf i s) := by
  cases i <;> exact ⟨rfl, rfl⟩

@[simp] theorem writesOf_hostInputs (i : Instr) (s : State) : (writesOf i s).hostInputs = s.hostInputs := by
  cases i <;> rfl

@[simp] theorem writesOf_responses (i : Instr) (s : State) : (writesOf i s).responses = s.responses := by
  cases i <;> rfl

theorem commandEnd_sameBuffer (i : Instr) (s : State) : SameBuffer s (commandEnd i s) := by
  rw [commandEnd]
  split
  · exact writesOf_sameBuffer i s
  · exact ⟨rfl, rfl⟩

@[simp] theorem commandEnd_hostInputs (i : Instr) (s : State) :
    (commandEnd i s).hostInputs = s.hostInputs := by
  rw [commandEnd]
  split
  · exact writesOf_hostInputs i s
  · rfl

theorem wordEnd_sameBuffer (w : CommandWord) (s : State) : SameBuffer s (wordEnd w s) := by
  obtain ⟨i, -, h⟩ | h := wordEnd_cases w s <;> rw [h]
  · exact commandEnd_sameBuffer i s
  · exact ⟨rfl, rfl⟩

@[simp] theorem wordEnd_hostInputs (w : CommandWord) (s : State) :
    (wordEnd w s).hostInputs = s.hostInputs := by
  obtain ⟨i, -, h⟩ | h := wordEnd_cases w s <;> rw [h]
  · exact commandEnd_hostInputs i s
  · rfl

theorem SameBuffer.samePorts (h : SameBuffer s t) (hin : t.hostInputs = s.hostInputs) : SamePorts s t := by
  obtain ⟨hbuf, hsize⟩ := h
  exact ⟨hsize, fun p => by rw [bufRead, bufRead, hbuf, hsize], hin⟩

theorem commandEnd_samePorts (i : Instr) (s : State) : SamePorts s (commandEnd i s) :=
  (commandEnd_sameBuffer i s).samePorts (commandEnd_hostInputs i s)

theorem wordEnd_samePorts (w : CommandWord) (s : State) : SamePorts s (wordEnd w s) :=
  (wordEnd_sameBuffer w s).samePorts (wordEnd_hostInputs w s)

theorem SamePorts.symm (h : SamePorts s t) : SamePorts t s := by
  obtain ⟨hsize, hread, hin⟩ := h
  exact ⟨hsize.symm, fun p => (hread p).symm, hin.symm⟩

theorem SamePorts.trans (h : SamePorts s t) (h' : SamePorts t t') : SamePorts s t' := by
  obtain ⟨hsize, hread, hin⟩ := h
  obtain ⟨hsize', hread', hin'⟩ := h'
  exact ⟨hsize'.trans hsize, fun p => (hread' p).trans (hread p), hin'.trans hin⟩

/-! ### The response of a command and of a word -/

/-- No command answers IllegalCommand (R94, R100). -/
theorem faultOf_ne {c : RspCode} (h : faultOf i s = some c) : c ≠ .ok ∧ c ≠ .illegalCommand := by
  cases i with
  | tbuild | refl8 | crcinit | stat => cases h
  | tread | crcupd | crcfin | cksum =>
    simp only [faultOf] at h
    split_ifs at h <;> cases h <;> decide

/-- The response of a command: the fault's code with data 0x0000 (R98), or OK with the result (R93). -/
def responseOf (i : Instr) (s : State) : Response :=
  match faultOf i s with
  | none => ⟨.ok, resultOf i s⟩
  | some c => ⟨c, 0x0000⟩

theorem commandEnd_answered (i : Instr) (s : State) : Answered s (commandEnd i s) (responseOf i s) := by
  rw [commandEnd, responseOf]
  split
  · rw [Answered, respond_responses, writesOf_responses]
  · exact raise_responses ..

theorem wordEnd_answered (w : CommandWord) (s : State) : ∃ r, Answered s (wordEnd w s) r := by
  obtain ⟨i, -, h⟩ | h := wordEnd_cases w s <;> rw [h]
  · exact ⟨_, commandEnd_answered i s⟩
  · exact ⟨_, raise_responses ..⟩

theorem Answered.unique {q : Response} (h : Answered s t r) (h' : Answered s t q) : r = q := by
  have sameResponse : [r] = [q] := List.append_cancel_left (h.symm.trans h')
  cases sameResponse
  rfl

theorem responseOf_code_ne (i : Instr) (s : State) : (responseOf i s).code ≠ .illegalCommand := by
  rw [responseOf]
  split
  next => show RspCode.ok ≠ .illegalCommand; decide
  next c hc => exact (faultOf_ne hc).2

/-- A command whose response is no OK has ended in `raise` on the state as it was. -/
theorem commandEnd_of_fault (h : Answered s (commandEnd i s) r) (hr : r.code ≠ .ok) :
    commandEnd i s = raise r.code s := by
  obtain rfl := (commandEnd_answered i s).unique h
  rw [responseOf] at hr ⊢
  split at hr
  next => exact absurd rfl hr
  next c hc => rw [commandEnd_of_raises hc]

theorem commandEnd_sameArch_of_fault (h : Answered s (commandEnd i s) r) (hr : r.code ≠ .ok) :
    SameArch s (commandEnd i s) := by
  rw [commandEnd_of_fault h hr]
  exact sameArch_raise ..

theorem wordEnd_of_fault (h : Answered s (wordEnd w s) r) (hr : r.code ≠ .ok) :
    wordEnd w s = raise r.code s := by
  obtain ⟨i, -, hw⟩ | hw := wordEnd_cases w s <;> rw [hw] at h ⊢
  · exact commandEnd_of_fault h hr
  · obtain rfl := Answered.unique (raise_responses ..) h
    rfl

/-- R98. -/
theorem wordEnd_sameArch_of_fault (h : Answered s (wordEnd w s) r) (hr : r.code ≠ .ok) :
    SameArch s (wordEnd w s) := by
  rw [wordEnd_of_fault h hr]
  exact sameArch_raise ..

/-- R98. -/
theorem data_of_fault (h : Answered s (wordEnd w s) r) (hr : r.code ≠ .ok) : r.data = 0x0000 := by
  rw [wordEnd_of_fault h hr] at h
  exact congrArg Response.data (h.unique (raise_responses ..))

/-! ### The table, once built (R20, R21) -/

/-- On a built table that meets the invariant a rebuild installs what is there (R75). -/
theorem table_eq_builtTable (hinv : TableInv s) (hbuilt : s.tvalid = true) : s.table = builtTable :=
  table_ext fun i => by rw [hinv hbuilt i, tableGet_builtTable]

theorem exec_sameTable_of_built (hinv : TableInv s) (hbuilt : s.tvalid = true) (h : exec i s = .next t) :
    SameTable s t := by
  by_cases hi : i = .tbuild
  · subst hi
    exact ⟨(exec_tbuild_table h).trans (table_eq_builtTable hinv hbuilt).symm,
      (exec_tbuild_tvalid h).trans hbuilt.symm⟩
  · exact exec_sameTable hi h

theorem wordEnd_sameTable_of_built (hinv : TableInv s) (hbuilt : s.tvalid = true) (w : CommandWord) :
    SameTable s (wordEnd w s) := by
  obtain ⟨i, -, h⟩ | h := wordEnd_cases w s <;> rw [h]
  · exact exec_sameTable_of_built hinv hbuilt (exec_eq_next i s)
  · exact sameTable_raise ..

/-! ### CRC and CVALID (R27) -/

theorem commandEnd_crc (hinit : i ≠ .crcinit) (hupd : ∀ b, i ≠ .crcupd b) (hsum : ∀ len, i ≠ .cksum len) :
    (commandEnd i s).crc = s.crc := by
  rw [commandEnd]
  split
  next =>
    cases i with
    | crcinit => exact absurd rfl hinit
    | crcupd b => exact absurd rfl (hupd b)
    | cksum len => exact absurd rfl (hsum len)
    | tbuild | tread | refl8 | crcfin | stat => rfl
  next => rfl

theorem commandEnd_cvalid (hinit : i ≠ .crcinit) (hfin : i ≠ .crcfin) (hsum : ∀ len, i ≠ .cksum len) :
    (commandEnd i s).cvalid = s.cvalid := by
  rw [commandEnd]
  split
  next =>
    cases i with
    | crcinit => exact absurd rfl hinit
    | crcfin => exact absurd rfl hfin
    | cksum len => exact absurd rfl (hsum len)
    | tbuild | tread | refl8 | crcupd | stat => rfl
  next => rfl

/-! ### The buffer's canonical form (assumption 5) -/

theorem SameBuffer.bufferInv (h : SameBuffer s t) (hs : BufferInv s) : BufferInv t := by
  obtain ⟨hbuf, hsize⟩ := h
  simpa only [BufferInv, hbuf, hsize] using hs

theorem bufferInv_supplyBuffer (bytes : List Byte) (s : State) : BufferInv (supplyBuffer bytes s) := by
  refine ⟨Memory.ofBytes_wf 0 bytes, fun c hc => ?_⟩
  obtain ⟨-, hlt⟩ := Memory.ofBytes_bounds 0 bytes hc
  rwa [Nat.zero_add] at hlt

/-! ### What of a state the commands can see -/

/-- The two states agree on what a command can read (R31): `SameReadable` without the inputs to come and the
responses given. -/
structure SameView (s t : State) : Prop where
  tvalid : t.tvalid = s.tvalid
  cvalid : t.cvalid = s.cvalid
  table : s.tvalid = true → t.table = s.table
  crc : s.cvalid = true → t.crc = s.crc
  bufSize : t.bufSize = s.bufSize
  bufRead : ∀ p, bufRead p t = bufRead p s

theorem sameReadable_iff :
    SameReadable s t ↔ SameView s t ∧ t.hostInputs = s.hostInputs ∧ t.responses = s.responses := by
  constructor
  · rintro ⟨htvalid, hcvalid, htable, hcrc, ⟨hsize, hread, hin⟩, hresponses⟩
    exact ⟨⟨htvalid, hcvalid, htable, hcrc, hsize, hread⟩, hin, hresponses⟩
  · rintro ⟨⟨htvalid, hcvalid, htable, hcrc, hsize, hread⟩, hin, hresponses⟩
    exact ⟨htvalid, hcvalid, htable, hcrc, ⟨hsize, hread, hin⟩, hresponses⟩

theorem SameArch.sameView (harch : SameArch s t) (hports : SamePorts s t) : SameView s t := by
  obtain ⟨htable, htvalid, hcrc, hcvalid⟩ := harch
  obtain ⟨hsize, hread, -⟩ := hports
  exact ⟨htvalid, hcvalid, fun _ => htable, fun _ => hcrc, hsize, hread⟩

theorem SameView.refl (s : State) : SameView s s := ⟨rfl, rfl, fun _ => rfl, fun _ => rfl, rfl, fun _ => rfl⟩

theorem SameView.with_hostInputs (h : SameView s t) (l l' : List HostInput) :
    SameView { s with hostInputs := l } { t with hostInputs := l' } := { h with }

/-- The two states change alike, `s` to `t` and `s'` to `t'`: they answer the same response, agree on what can be
read, and on the whole architectural state if they did before. -/
structure ChangeAlike (s s' t t' : State) : Prop where
  answer : ∃ q, Answered s t q ∧ Answered s' t' q
  view : SameView t t'
  arch : SameArch s s' → SameArch t t'

theorem bufPrefix_congr {n : Nat} (hs : n ≤ s.bufSize) (hs' : n ≤ s'.bufSize)
    (h : ∀ p, p < n → bufRead p s' = bufRead p s) : bufPrefix n s' = bufPrefix n s := by
  refine List.map_congr_left fun p hp => ?_
  have hp := List.mem_range.1 hp
  have same := h p hp
  rwa [bufRead_of_lt (by omega), bufRead_of_lt (by omega), Option.some.injEq] at same

theorem SameView.bufSum_eq {n : Nat} (h : SameView s s') (hfits : n ≤ s.bufSize)
    (hready : n = 0 ∨ s.tvalid = true) : bufSum n s' = bufSum n s := by
  obtain rfl | hbuilt := hready
  · rfl
  · rw [bufSum, bufSum, h.table hbuilt,
      bufPrefix_congr hfits (hfits.trans h.bufSize.ge) fun p _ => h.bufRead p]

/-! ### When a command completes -/

theorem faultOf_tread_eq_none_iff {idx : Byte} : faultOf (.tread idx) s = none ↔ s.tvalid = true := by
  simp [faultOf]

theorem faultOf_crcupd_eq_none_iff {b : Byte} :
    faultOf (.crcupd b) s = none ↔ s.cvalid = true ∧ s.tvalid = true := by
  simp only [faultOf]
  cases s.cvalid <;> cases s.tvalid <;> simp

theorem faultOf_crcfin_eq_none_iff : faultOf .crcfin s = none ↔ s.cvalid = true := by
  simp [faultOf]

theorem faultOf_cksum_eq_none_iff {len : Word} :
    faultOf (.cksum len) s = none ↔ len.toNat ≤ s.bufSize ∧ (len.toNat = 0 ∨ s.tvalid = true) := by
  have hzero : len = 0 ↔ len.toNat = 0 := BitVec.toNat_eq
  simp only [faultOf, hzero]
  split
  next h => simp [h]
  next h => simp [Nat.not_lt.1 h, or_iff_not_imp_left]

/-! ### Commands on states that look alike (R31, R102) -/

theorem SameView.faultOf_eq (h : SameView s s') : faultOf i s' = faultOf i s := by
  cases i <;> simp only [faultOf, h.tvalid, h.cvalid, h.bufSize]

theorem SameView.resultOf_eq (h : SameView s s') (hf : faultOf i s = none) :
    resultOf i s' = resultOf i s := by
  cases i with
  | tbuild | refl8 | crcinit | crcupd => rfl
  | tread idx => rw [resultOf, h.table (faultOf_tread_eq_none_iff.1 hf), resultOf]
  | crcfin => rw [resultOf, h.crc (faultOf_crcfin_eq_none_iff.1 hf), resultOf]
  | cksum len =>
    obtain ⟨hfits, hready⟩ := faultOf_cksum_eq_none_iff.1 hf
    rw [resultOf, h.bufSum_eq hfits hready, resultOf]
  | stat => rw [resultOf, statusWord, h.tvalid, h.cvalid, resultOf, statusWord]

/-- The writes of a command that completes are functions of what it can read. -/
theorem SameView.sameView_writesOf (h : SameView s s') (hf : faultOf i s = none) :
    SameView (writesOf i s) (writesOf i s') := by
  cases i with
  | tbuild => exact { h with tvalid := rfl, table := fun _ => rfl }
  | tread | refl8 | stat => exact h
  | crcinit => exact { h with cvalid := rfl, crc := fun _ => rfl }
  | crcupd b =>
    obtain ⟨hlive, hbuilt⟩ := faultOf_crcupd_eq_none_iff.1 hf
    have accumulator : upd s'.table s'.crc b = upd s.table s.crc b := by rw [h.table hbuilt, h.crc hlive]
    exact { h with crc := fun _ => accumulator }
  | crcfin => exact { h with cvalid := rfl, crc := fun hlive => (Bool.false_ne_true hlive).elim }
  | cksum len => exact { h with cvalid := rfl, crc := fun hlive => (Bool.false_ne_true hlive).elim }

/-- The same of the whole architectural state, the values that no rule can read included. -/
theorem SameView.sameArch_writesOf (h : SameView s s') (hf : faultOf i s = none) (harch : SameArch s s') :
    SameArch (writesOf i s) (writesOf i s') := by
  obtain ⟨htable, htvalid, hcrc, hcvalid⟩ := harch
  cases i with
  | tbuild => exact ⟨rfl, rfl, hcrc, hcvalid⟩
  | tread | refl8 | stat => exact ⟨htable, htvalid, hcrc, hcvalid⟩
  | crcinit => exact ⟨htable, htvalid, rfl, rfl⟩
  | crcupd b =>
    have accumulator : upd s'.table s'.crc b = upd s.table s.crc b := by rw [htable, hcrc]
    exact ⟨htable, htvalid, accumulator, hcvalid⟩
  | crcfin => exact ⟨htable, htvalid, hcrc, rfl⟩
  | cksum len =>
    obtain ⟨hfits, hready⟩ := faultOf_cksum_eq_none_iff.1 hf
    exact ⟨htable, htvalid, h.bufSum_eq hfits hready, rfl⟩

theorem SameView.raise_alike (h : SameView s s') (c : RspCode) :
    ChangeAlike s s' (raise c s) (raise c s') :=
  ⟨⟨_, raise_responses .., raise_responses ..⟩, { h with }, id⟩

theorem SameView.commandEnd_alike (h : SameView s s') (i : Instr) :
    ChangeAlike s s' (commandEnd i s) (commandEnd i s') := by
  cases hf : faultOf i s with
  | some c =>
    rw [commandEnd_of_raises hf, commandEnd_of_raises (h.faultOf_eq.trans hf)]
    exact h.raise_alike c
  | none =>
    have answered := commandEnd_answered i s
    have answered' := commandEnd_answered i s'
    rw [responseOf, h.faultOf_eq, hf, h.resultOf_eq hf] at answered'
    rw [responseOf, hf] at answered
    refine ⟨⟨_, answered, answered'⟩, ?_, fun harch => ?_⟩ <;>
      rw [commandEnd_of_completes hf, commandEnd_of_completes (h.faultOf_eq.trans hf)]
    · exact { h.sameView_writesOf hf with }
    · exact h.sameArch_writesOf hf harch

theorem SameView.wordEnd_alike (h : SameView s s') (w : CommandWord) :
    ChangeAlike s s' (wordEnd w s) (wordEnd w s') := by
  rw [wordEnd, wordEnd]
  cases decode w with
  | ok i => exact h.commandEnd_alike i
  | error e => exact h.raise_alike .illegalCommand

theorem SameView.answers_alike {q : Response} (h : SameView s s') (answered : Answered s (wordEnd w s) q)
    (answered' : Answered s' (wordEnd w s') r) : q = r := by
  obtain ⟨p, hp, hp'⟩ := (h.wordEnd_alike w).answer
  exact (answered.unique hp).trans (hp'.unique answered')

/-! ### Steps on states that look alike -/

theorem step_keeps_sameReadable (h : SameReadable s s') :
    ∃ t t', step s = .next t ∧ step s' = .next t' ∧ SameReadable t t' := by
  obtain ⟨view, hin, hresponses⟩ := sameReadable_iff.1 h
  cases hs : s.hostInputs with
  | nil => exact ⟨s, s', step_of_no_input hs, step_of_no_input (hin.trans hs), h⟩
  | cons x rest =>
    have hs' := hin.trans hs
    cases x with
    | reset =>
      refine ⟨_, _, step_of_reset hs, step_of_reset hs', sameReadable_iff.2 ⟨?_, rfl, hresponses⟩⟩
      exact { view with
        tvalid := rfl
        cvalid := rfl
        table := fun hbuilt => (Bool.false_ne_true hbuilt).elim
        crc := fun hlive => (Bool.false_ne_true hlive).elim }
    | supplyBuffer bytes =>
      refine ⟨_, _, step_of_supplyBuffer hs, step_of_supplyBuffer hs', sameReadable_iff.2 ⟨?_, rfl, hresponses⟩⟩
      exact { view with bufSize := rfl, bufRead := fun _ => rfl }
    | command w =>
      have taken : SameView { s with hostInputs := rest } { s' with hostInputs := rest } := { view with }
      have alike := taken.wordEnd_alike w
      obtain ⟨q, answered, answered'⟩ := alike.answer
      refine ⟨_, _, step_of_word hs, step_of_word hs', sameReadable_iff.2 ⟨alike.view, ?_, ?_⟩⟩
      · rw [wordEnd_hostInputs, wordEnd_hostInputs]
      · exact answered'.trans ((congrArg (· ++ [q]) hresponses).trans answered.symm)

/-! ### Runs on the host's inputs (R122, R123) -/

theorem commandsIn_cons (x : HostInput) (l : List HostInput) :
    commandsIn (x :: l) = commandsIn [x] + commandsIn l := List.countP_append (l₁ := [x])

/-- A step takes one input, and gives one response if that is a command word and none otherwise. -/
theorem step_takes_input {x : HostInput} (hin : s.hostInputs = x :: rest) :
    ∃ t rs, step s = .next t ∧ t.hostInputs = rest ∧ t.responses = s.responses ++ rs ∧
      rs.length = commandsIn [x] := by
  cases x with
  | reset => exact ⟨_, [], step_of_reset hin, rfl, (List.append_nil _).symm, rfl⟩
  | supplyBuffer bytes => exact ⟨_, [], step_of_supplyBuffer hin, rfl, (List.append_nil _).symm, rfl⟩
  | command w =>
    obtain ⟨r, answered⟩ := wordEnd_answered w { s with hostInputs := rest }
    exact ⟨_, [r], step_of_word hin, wordEnd_hostInputs .., answered, rfl⟩

theorem runFor_takes_inputs (l : List HostInput) (hin : s.hostInputs = l) :
    ∃ t, runFor l.length s = .next t ∧ t.hostInputs = [] ∧
      ∃ rs, t.responses = s.responses ++ rs ∧ rs.length = commandsIn l := by
  induction l generalizing s with
  | nil => exact ⟨s, rfl, hin, [], (List.append_nil _).symm, rfl⟩
  | cons x l ih =>
    obtain ⟨u, rs, hstep, hnext, hresponses, hlength⟩ := step_takes_input hin
    obtain ⟨t, hrun, hempty, rs', hresponses', hlength'⟩ := ih hnext
    refine ⟨t, runFor_succ_eq_next.2 ⟨u, hstep, hrun⟩, hempty, rs ++ rs', ?_, ?_⟩
    · rw [hresponses', hresponses, List.append_assoc]
    · rw [List.length_append, hlength, hlength', commandsIn_cons x l]

/-! ### The obligations: invariants and frames -/

/-- Settles O40: only a reset input and TBUILD touch TABLE, the one with TVALID cleared, the other with every
entry right. -/
theorem stepKeepsTableInvariant : Obligations.StepKeepsTableInvariant :=
  fun _ _ => step_keeps_tableInv

/-- Settles O41: TVALID is 0 at reset. -/
theorem resetMeetsTableInvariant : Obligations.ResetMeetsTableInvariant := tableInv_of_unbuilt rfl

/-- Settles O46: a step takes states that agree on what can be read to such states; a run is its steps. -/
theorem unspecifiedValuesAreNeverRead : Obligations.UnspecifiedValuesAreNeverRead := by
  intro n
  induction n with
  | zero => exact fun s s' h => ⟨s, s', rfl, rfl, h⟩
  | succ n ih =>
    intro s s' h
    obtain ⟨u, u', hstep, hstep', hu⟩ := step_keeps_sameReadable h
    obtain ⟨t, t', hrun, hrun', ht⟩ := ih u u' hu
    exact ⟨t, t', runFor_succ_eq_next.2 ⟨u, hstep, hrun⟩, runFor_succ_eq_next.2 ⟨u', hstep', hrun'⟩, ht⟩

/-- Settles O18: the table that TBUILD installs is the one that the invariant describes. -/
theorem rebuildChangesNothing : Obligations.RebuildChangesNothing := by
  intro s t hinv hbuilt h
  obtain ⟨htable, htvalid⟩ := exec_sameTable_of_built hinv hbuilt h
  obtain ⟨hcrc, hcvalid⟩ := exec_sameAccumulator (.inl rfl) h
  obtain rfl := exec_eq_next_iff.1 h
  have ports : SamePorts s (commandEnd .tbuild s) := commandEnd_samePorts .tbuild s
  exact ⟨⟨htable, htvalid, hcrc, hcvalid⟩, htvalid, hcvalid, fun _ => htable, fun _ => hcrc, ports, rfl⟩

/-- Settles O37: each write of a command, and what no command writes. -/
theorem onlyTheseCommandsWrite : Obligations.OnlyTheseCommandsWrite := by
  intro i s t h
  have table (hi : i ≠ .tbuild) : SameTable s t := exec_sameTable hi h
  obtain rfl := exec_eq_next_iff.1 h
  exact ⟨commandEnd_samePorts i s, table, commandEnd_crc, commandEnd_cvalid⟩

/-- Settles O43: a buffer change puts a canonical buffer in place, everything else leaves the buffer. -/
theorem stepKeepsBufferCanonical : Obligations.StepKeepsBufferCanonical := by
  intro s t hs h
  obtain rfl | ⟨rest, -, rfl⟩ | ⟨bytes, rest, rfl⟩ | ⟨w, rest, rfl⟩ := step_cases h
  · exact hs
  · exact hs
  · exact bufferInv_supplyBuffer bytes _
  · exact (wordEnd_sameBuffer w { s with hostInputs := rest }).bufferInv hs

/-- Settles O44: no cell is listed. -/
theorem resetBufferIsCanonical : Obligations.ResetBufferIsCanonical :=
  ⟨⟨List.Pairwise.nil, nofun⟩, nofun⟩

/-- Settles O45: of the inputs only a reset clears TVALID, and a word leaves a table that is built right. -/
theorem builtTableStaysUntilReset : Obligations.BuiltTableStaysUntilReset := by
  intro s t hinv hbuilt hreset h
  obtain rfl | ⟨rest, hin, -⟩ | ⟨bytes, rest, rfl⟩ | ⟨w, rest, rfl⟩ := step_cases h
  · exact ⟨hbuilt, fun _ => rfl⟩
  · exact absurd hin (hreset rest)
  · exact ⟨hbuilt, fun _ => rfl⟩
  · obtain ⟨htable, htvalid⟩ :=
      wordEnd_sameTable_of_built (s := { s with hostInputs := rest }) hinv hbuilt w
    exact ⟨htvalid.trans hbuilt, fun i => by rw [htable]⟩

/-! ### The obligations: faults -/

/-- Settles O34: CKSUM's bounds check and CRCUPD's accumulator check come first; the faults that a command's
checks find are three others. -/
theorem faultPriority : Obligations.FaultPriority := by
  refine ⟨fun len s hbounds _ => ⟨_, raises_cksum_of_out_of_bounds hbounds⟩,
    fun b s hlive _ => ⟨_, raises_crcupd_of_not_live b hlive⟩, fun i s t r h answered => ?_⟩
  obtain rfl := exec_eq_next_iff.1 h
  obtain rfl := (commandEnd_answered i s).unique answered
  exact responseOf_code_ne i s

/-- Settles O35: a word whose response is no OK has ended in `raise` on the state with the word taken. -/
theorem faultsChangeNothing : Obligations.FaultsChangeNothing := by
  intro s t w rest r hin h answered hr
  cases (step_of_word hin).symm.trans h
  exact ⟨data_of_fault (s := { s with hostInputs := rest }) answered hr,
    wordEnd_sameArch_of_fault (s := { s with hostInputs := rest }) answered hr, wordEnd_samePorts ..⟩

/-- Settles O36: the state after a fault looks like the state before it, and commands and words change states
that look alike in the same way. -/
theorem faultsLeaveNoTrace : Obligations.FaultsLeaveNoTrace := by
  refine ⟨fun i j s t r h answered hr => ?commands, fun s t w w' rest r hin h answered hr => ?words⟩
  case commands =>
    obtain rfl := exec_eq_next_iff.1 h
    have arch := commandEnd_sameArch_of_fault answered hr
    have ports := commandEnd_samePorts i s
    have alike := (arch.sameView ports).commandEnd_alike j
    obtain ⟨q, before, after⟩ := alike.answer
    refine ⟨_, _, q, exec_eq_next j s, exec_eq_next j _, before, after, alike.arch arch, ?_, ?_⟩
    · exact (commandEnd_samePorts j s).symm.trans (ports.trans (commandEnd_samePorts j _))
    · rintro rfl
      exact before.unique answered
  case words =>
    cases (step_of_word hin).symm.trans h
    have arch := wordEnd_sameArch_of_fault (s := { s with hostInputs := .command w' :: rest }) answered hr
    have ports := wordEnd_samePorts w { s with hostInputs := .command w' :: rest }
    have ⟨hsize, hread, hnext⟩ := ports
    have alike := ((arch.sameView ports).with_hostInputs rest rest).wordEnd_alike w'
    obtain ⟨q, before, after⟩ := alike.answer
    refine ⟨_, _, q, step_of_word rfl, step_of_word hnext, before, after, alike.arch arch, ?_, ?_⟩
    · have taken : SamePorts { s with hostInputs := rest } { wordEnd w _ with hostInputs := rest } :=
        ⟨hsize, hread, rfl⟩
      exact (wordEnd_samePorts w' _).symm.trans (taken.trans (wordEnd_samePorts w' _))
    · rintro rfl
      have view : SameView { s with hostInputs := rest } { s with hostInputs := .command w :: rest } :=
        (SameView.refl s).with_hostInputs ..
      exact view.answers_alike before answered

/-! ### The obligations: steps and runs -/

/-- Settles O6: the step on a word that decodes to a command. -/
theorem stepRunsTheDecodedCommand : Obligations.StepRunsTheDecodedCommand := by
  intro s w rest i hin hw
  rw [step_of_command hin, hw]

/-- Settles O38: a word ends in one state, with one response, of which `wordEnd` says all. -/
theorem everyWordGetsOneResponse : Obligations.EveryWordGetsOneResponse := by
  intro s w rest hin
  obtain ⟨r, answered⟩ := wordEnd_answered w { s with hostInputs := rest }
  exact ⟨_, r, step_of_word hin, answered, wordEnd_hostInputs .., data_of_fault answered⟩

/-- Settles O39: each step takes one input and answers it as its kind asks. -/
theorem runsRespondToEveryCommand : Obligations.RunsRespondToEveryCommand :=
  fun s => runFor_takes_inputs s.hostInputs rfl

/-! ### The obligations: reset -/

/-- Settles O47. -/
theorem resetValues : Obligations.ResetValues := ⟨rfl, rfl, rfl, rfl⟩

/-- Settles O48: the step on a reset input is `applyReset`. -/
theorem resetInputClearsTheFlags : Obligations.ResetInputClearsTheFlags := by
  intro s rest hin
  have cleared : flagBit false <<< 1 ||| flagBit false = 0x0000 := by decide
  exact ⟨_, step_of_reset hin, rfl, rfl, (statusWord_of_flags rfl rfl).trans cleared,
    ⟨rfl, fun _ => rfl, rfl⟩, rfl⟩

end Sys2Proof.Machine
end

section
/-! PROOF. The finalisation, the checksum and the two commands that give it (42_crc_engine.md R81 to R88). `fin`
reverses sixteen bits; the byte update is eight steps of the builder's register on the accumulator with the
reflected byte XORed into its high half, which is XOR-linear and, read from the other end, CRC-16/ARC. -/

namespace Sys2Proof.Machine

variable {s s' t : State} {n : Nat} {len : Word}

/-! ### The finalisation as a reversal (R87 a) -/

theorem highByte_append_lowByte (crc : Word) : highByte crc ++ lowByte crc = crc :=
  BitVec.extractLsb'_append_extractLsb'

theorem fin_eq_reverse (crc : Word) : fin crc = crc.reverse := by
  rw [fin_eq_append, reflect8_eq_reverse, reflect8_eq_reverse]
  conv_rhs => rw [← highByte_append_lowByte crc, BitVec.reverse_append]
  rfl

theorem getLsbD_fin (crc : Word) {k : Nat} (hk : k < 16) : (fin crc).getLsbD k = crc.getLsbD (15 - k) := by
  rw [fin_eq_reverse, BitVec.getLsbD_reverse, BitVec.getMsbD]
  simp [hk]

theorem fin_fin (crc : Word) : fin (fin crc) = crc := by
  rw [fin_eq_reverse, fin_eq_reverse, BitVec.reverse_reverse_eq]

theorem fin_xor (x y : Word) : fin (x ^^^ y) = fin x ^^^ fin y := by
  apply BitVec.eq_of_getLsbD_eq
  intro k hk
  simp only [BitVec.getLsbD_xor, getLsbD_fin _ hk]

/-! ### The byte update as eight steps of the builder's register -/

/-- A step on a register whose bit 15 is clear only shifts. -/
theorem registerStep_of_bit_clear {r : Word} (h : r.getLsbD 15 = false) : registerStep r = shl16 r 1 := by
  simp only [registerStep, h, Bool.false_eq_true, if_false]

/-- The first eight steps on a byte in the low half meet no bit 15. -/
theorem iterate_registerStep_zext16 (b : Byte) (hn : n ≤ 8) :
    registerStep^[n] (zext16 b) = shl16 (zext16 b) n := by
  induction n with
  | zero => exact (BitVec.shiftLeft_zero _).symm
  | succ n ih =>
    have clear : (shl16 (zext16 b) n).getLsbD 15 = false := by
      have beyond : b.getLsbD (15 - n) = false := BitVec.getLsbD_of_ge b _ (by omega)
      rw [shl16, BitVec.getLsbD_shiftLeft, zext16, BitVec.getLsbD_setWidth, beyond]
      simp
    rw [Function.iterate_succ_apply', ih (by omega), registerStep_of_bit_clear clear, shl16, shl16, shl16,
      ← BitVec.shiftLeft_add]

theorem zext16_eq_append (b : Byte) : zext16 b = (0 : Byte) ++ b := BitVec.setWidth_eq_append (by decide)

theorem and_0xFF_eq_zext16 (w : Word) : w &&& 0xFF = zext16 (lowByte w) := by
  have mask : (0xFF : Word) = (0 : Byte) ++ BitVec.allOnes 8 := by decide
  have high : highByte w &&& 0 = 0 := BitVec.and_zero
  conv_lhs => rw [← highByte_append_lowByte w]
  rw [mask, BitVec.and_append, BitVec.and_allOnes, high, zext16_eq_append]

/-- The accumulator with a byte XORed into its high half. -/
theorem xor_append_zero (crc : Word) (b : Byte) :
    crc ^^^ (b ++ (0 : Byte)) = ((highByte crc ^^^ b) ++ (0 : Byte)) ^^^ zext16 (lowByte crc) := by
  conv_lhs => rw [← highByte_append_lowByte crc]
  rw [zext16_eq_append, BitVec.xor_append, BitVec.xor_append]
  simp

/-- R78 from the other side: looking up the entry is taking the eight bit-steps. -/
theorem upd_builtTable_eq_iterate (crc : Word) (b : Byte) :
    upd builtTable crc b = registerStep^[8] (crc ^^^ (reflect8 b ++ (0 : Byte))) := by
  have entry : tentry (tableIndex crc (reflect8 b)) =
      registerStep^[8] ((highByte crc ^^^ reflect8 b) ++ (0 : Byte)) := by
    rw [tentry_eq_iterate, builderSeed_snd, tableIndex]
  have moved : shl16 crc 8 &&& 0xFF00 = registerStep^[8] (zext16 (lowByte crc)) := by
    rw [iterate_registerStep_zext16 _ (Nat.le_refl 8), shl16_eight_and_0xFF00, and_0xFF_eq_zext16, shl16]
  rw [upd_builtTable, xor_append_zero, iterate_registerStep_xor, entry, moved]
  exact BitVec.xor_comm ..

theorem upd_builtTable_xor (crc crc' : Word) (b b' : Byte) :
    upd builtTable (crc ^^^ crc') (b ^^^ b') = upd builtTable crc b ^^^ upd builtTable crc' b' := by
  have bytes : reflect8 (b ^^^ b') ++ (0 : Byte) = (reflect8 b ++ (0 : Byte)) ^^^ (reflect8 b' ++ (0 : Byte)) := by
    rw [reflect8_xor, BitVec.xor_append]
    rfl
  simp only [upd_builtTable_eq_iterate, bytes, ← iterate_registerStep_xor]
  ac_rfl

theorem foldl_upd_builtTable_xor (xs ys : List Byte) (h : xs.length = ys.length) (crc crc' : Word) :
    (List.zipWith (· ^^^ ·) xs ys).foldl (upd builtTable) (crc ^^^ crc') =
      xs.foldl (upd builtTable) crc ^^^ ys.foldl (upd builtTable) crc' := by
  induction xs generalizing ys crc crc' with
  | nil => cases List.length_eq_zero_iff.1 h.symm; rfl
  | cons x xs ih =>
    cases ys with
    | nil => cases h
    | cons y ys =>
      rw [List.zipWith_cons_cons, List.foldl_cons, upd_builtTable_xor]
      exact ih ys (Nat.succ.inj h) _ _

/-! ### CRC-16/ARC (R87 b) -/

/-- One bit of the reflected form is a step of the register, read from the other end: the polynomial 0x8005
reversed is 0xA001. -/
theorem fin_registerStep (r : Word) : fin (registerStep r) = reflectedBit (fin r) := by
  have tested : (fin r).getLsbD 0 = r.getLsbD 15 := getLsbD_fin r (by decide)
  have polynomial : fin poly = 0xA001 := by decide
  have shifted : fin (shl16 r 1) = fin r >>> 1 := by
    apply BitVec.eq_of_getLsbD_eq
    intro k hk
    rw [getLsbD_fin _ hk, shl16, BitVec.getLsbD_shiftLeft, BitVec.getLsbD_ushiftRight]
    obtain rfl | hnext : k = 15 ∨ 1 + k < 16 := by omega
    · rw [BitVec.getLsbD_of_ge (fin r) _ (by decide)]
      rfl
    · rw [getLsbD_fin r hnext, show 15 - k - 1 = 15 - (1 + k) by omega]
      simp only [show 15 - k < 16 by omega, show ¬ 15 - k < 1 by omega, decide_true, decide_false, Bool.not_false,
        Bool.true_and]
  rw [registerStep, reflectedBit, tested]
  split
  · rw [fin_xor, polynomial, shifted]
  · exact shifted

theorem fin_iterate_registerStep (r : Word) : fin (registerStep^[n] r) = reflectedBit^[n] (fin r) :=
  have semiconj : Function.Semiconj fin registerStep reflectedBit := fin_registerStep
  semiconj.iterate_right n r

theorem reflectedByte_eq_iterate (crc : Word) (b : Byte) :
    reflectedByte crc b = reflectedBit^[8] (crc ^^^ zext16 b) :=
  List.foldl_const reflectedBit _ (List.range 8)

theorem fin_append_zero (b : Byte) : fin (reflect8 b ++ (0 : Byte)) = zext16 b := by
  rw [fin_eq_reverse, reflect8_eq_reverse, BitVec.reverse_append, BitVec.reverse_reverse_eq, zext16_eq_append]
  rfl

theorem fin_upd_builtTable (crc : Word) (b : Byte) : fin (upd builtTable crc b) = reflectedByte (fin crc) b := by
  rw [upd_builtTable_eq_iterate, fin_iterate_registerStep, fin_xor, fin_append_zero, reflectedByte_eq_iterate]

theorem fin_foldl_upd_builtTable (bytes : List Byte) (crc : Word) :
    fin (bytes.foldl (upd builtTable) crc) = bytes.foldl reflectedByte (fin crc) :=
  (List.foldl_hom fin fun crc b => (fin_upd_builtTable crc b).symm).symm

/-! ### CKSUM and CHECKSUM (R82, R83) -/

/-- Under the table invariant CKSUM's result is CHECKSUM of the bytes it reads. -/
theorem fin_bufSum (hinv : TableInv s) (h : n = 0 ∨ s.tvalid = true) :
    fin (bufSum n s) = checksum (bufPrefix n s) := by
  obtain rfl | hbuilt := h
  · rfl
  · rw [bufSum, table_eq_builtTable hinv hbuilt, checksum]

theorem completes_cksum_checksum (hinv : TableInv s) (hbuilt : s.tvalid = true) (hfits : len.toNat ≤ s.bufSize) :
    ∃ t, Completes (.cksum len) s t (checksum (bufPrefix len.toNat s)) := by
  rw [← fin_bufSum hinv (.inr hbuilt)]
  exact ⟨_, completes_cksum hfits (.inr hbuilt)⟩

/-- The word of CKSUM (R51, R54). -/
theorem encode_cksum (len : Word) : encode (.cksum len) = 0x07000000 ||| len.setWidth 32 := by
  have opcode : (0x07 : BitVec 8).setWidth 32 <<< 24 = (0x07000000 : CommandWord) := by decide
  rw [encode_eq_or, opcodeOf, operandOf, opcode]

/-! ### The obligations -/

/-- Settles O24: a reversal moves bit `15-k` to bit `k`, and a second one moves it back. -/
theorem finalisationReversesSixteenBits : Obligations.FinalisationReversesSixteenBits := by
  have involutive : Function.Involutive fin := fin_fin
  exact ⟨fun crc _ hk => getLsbD_fin crc hk, involutive, involutive.bijective⟩

/-- Settles O25: the finalisation carries each byte update over to the reflected form, and 0x0000 to 0x0000. -/
theorem checksumIsCrc16Arc : Obligations.ChecksumIsCrc16Arc := by
  intro bytes
  have start : fin crcStart = 0 := by decide
  rw [checksum, fin_foldl_upd_builtTable, start, checksumReflected]

/-- Settles O26: CRCFIN behind the accumulator guard, on either side of it. -/
theorem crcfinReturnsTheResult : Obligations.CrcfinReturnsTheResult := by
  refine ⟨by decide, fun s hlive => ⟨_, completes_crcfin hlive, rfl, rfl, rfl, rfl⟩,
    fun s hlive => ⟨_, raises_crcfin_of_not_live hlive⟩,
    fun s t _ h => ⟨_, raises_crcfin_of_not_live (exec_crcfin_cvalid h)⟩, fun s t h => ?empty, by decide⟩
  case empty =>
    have finalised : fin crcStart = 0x0000 := by decide
    have completes := completes_crcfin (exec_crcinit_cvalid h)
    rw [exec_crcinit_crc h, finalised] at completes
    exact ⟨_, completes⟩

/-- Settles O27: CKSUM behind its two checks, on each side of both; the check string in the
reflected form. -/
theorem cksumSumsThePrefix : Obligations.CksumSumsThePrefix := by
  refine ⟨encode_cksum, fun len s hfits hready => ⟨_, completes_cksum hfits hready, rfl, rfl, rfl, rfl⟩,
    fun len s hinv _ hready => fin_bufSum hinv (hready.imp_left BitVec.toNat_eq.1),
    fun len s hbounds => ⟨_, raises_cksum_of_out_of_bounds hbounds⟩,
    fun len s hfits hlen hunbuilt => ⟨_, raises_cksum_of_unbuilt hfits hlen hunbuilt⟩, ?checkString⟩
  case checkString =>
    rw [checksumIsCrc16Arc]
    simp [checksumReflected, reflectedByte_eq_iterate, reflectedBit, zext16]

/-- Settles O29: both states give CHECKSUM of the bytes that they share. -/
theorem cksumDependsOnThePrefixOnly : Obligations.CksumDependsOnThePrefixOnly := by
  intro len s s' hinv hinv' hbuilt hbuilt' hfits hfits' hsame
  obtain ⟨t, ht⟩ := completes_cksum_checksum hinv hbuilt hfits
  obtain ⟨t', ht'⟩ := completes_cksum_checksum hinv' hbuilt' hfits'
  rw [bufPrefix_congr hfits hfits' fun p hp => (hsame p hp).symm] at ht'
  exact ⟨t, t', ht, ht'⟩

/-- Settles O31: the register's steps and the reversal are linear, and the fold takes one byte of each string
at a time. -/
theorem checksumIsXorLinear : Obligations.ChecksumIsXorLinear := by
  refine ⟨upd_builtTable_xor, fin_xor, fun xs ys h => ?_⟩
  have start : crcStart = crcStart ^^^ crcStart := by decide
  rw [checksum, start, foldl_upd_builtTable_xor xs ys h, fin_xor, checksum, checksum]

end Sys2Proof.Machine
end

section
/-! PROOF. The words that spell a command and those that do not (30_encoding.md R55; 95_test_vectors.md section
6): the opcodes by format, and the list of all commands, each encoded. -/

namespace Sys2Proof

variable {w : CommandWord} {i : Instr} {o : BitVec 8}

/-! ### The opcodes by format (R49 to R51) -/

theorem opcode_undefined_iff : ∀ o : BitVec 8, o = 0x00 ∨ 9 ≤ o.toNat ↔
    ¬ (o ∈ [0x01#8, 0x04#8, 0x06#8, 0x08#8] ∨ o ∈ [0x02#8, 0x03#8, 0x05#8] ∨ o = 0x07) := by
  decide

theorem opcode_defined_iff : ∀ o : BitVec 8, 1 ≤ o.toNat ∧ o.toNat ≤ 8 ↔
    (o ∈ [0x01#8, 0x04#8, 0x06#8, 0x08#8] ∨ o ∈ [0x02#8, 0x03#8, 0x05#8] ∨ o = 0x07) := by
  decide

/-- No opcode has two formats. -/
theorem opcode_formats_disjoint : ∀ o : BitVec 8,
    ¬ (o ∈ [0x01#8, 0x04#8, 0x06#8, 0x08#8] ∧ (o ∈ [0x02#8, 0x03#8, 0x05#8] ∨ o = 0x07)) ∧
    ¬ (o ∈ [0x02#8, 0x03#8, 0x05#8] ∧ o = 0x07) := by
  decide

/-- R54, R55: the legal words, by opcode and fields. -/
theorem exists_decode_eq_ok_iff : (∃ i, decode w = .ok i) ↔ rsvField w = 0 ∧
    (opcField w ∈ [0x01#8, 0x04#8, 0x06#8, 0x08#8] ∧ opdField w = 0 ∨
      opcField w ∈ [0x02#8, 0x03#8, 0x05#8] ∧ opdHigh w = 0 ∨ opcField w = 0x07) := by
  simp only [decode_eq_ok_iff, HasFieldsOf]
  constructor
  · rintro ⟨i, hop, hrsv, hopd⟩
    refine ⟨hrsv, ?_⟩
    cases i with
    | tbuild | crcinit | crcfin | stat => exact .inl ⟨by simp [hop, opcodeOf], hopd⟩
    | tread b | refl8 b | crcupd b =>
      obtain ⟨hhigh, -⟩ := opdField_eq_setWidth_iff.1 hopd
      exact .inr (.inl ⟨by simp [hop, opcodeOf], hhigh⟩)
    | cksum len => exact .inr (.inr hop)
  · rintro ⟨hrsv, ⟨hop, hopd⟩ | ⟨hop, hhigh⟩ | hop⟩
    · simp only [List.mem_cons, List.not_mem_nil, or_false] at hop
      obtain hop | hop | hop | hop := hop
      · exact ⟨.tbuild, hop, hrsv, hopd⟩
      · exact ⟨.crcinit, hop, hrsv, hopd⟩
      · exact ⟨.crcfin, hop, hrsv, hopd⟩
      · exact ⟨.stat, hop, hrsv, hopd⟩
    · have hopd : opdField w = (imm8Field w).setWidth 16 := opdField_eq_setWidth_iff.2 ⟨hhigh, rfl⟩
      simp only [List.mem_cons, List.not_mem_nil, or_false] at hop
      obtain hop | hop | hop := hop
      · exact ⟨.tread (imm8Field w), hop, hrsv, hopd⟩
      · exact ⟨.refl8 (imm8Field w), hop, hrsv, hopd⟩
      · exact ⟨.crcupd (imm8Field w), hop, hrsv, hopd⟩
    · exact ⟨.cksum (opdField w), hop, hrsv, rfl⟩

/-- A word that the decoder, run, gives no command for. -/
theorem decode_ne_ok_of_toOption (h : (decode w).toOption = none) (i : Instr) : decode w ≠ .ok i := by
  intro hi
  rw [hi] at h
  cases h

/-! ### The list of all commands -/

/-- All values of a width, in order. -/
def allBitVecs (n : Nat) : List (BitVec n) := (List.finRange (2 ^ n)).map BitVec.ofFin

theorem mem_allBitVecs {n : Nat} (v : BitVec n) : v ∈ allBitVecs n :=
  List.mem_map.2 ⟨v.toFin, List.mem_finRange _, rfl⟩

theorem nodup_allBitVecs (n : Nat) : (allBitVecs n).Nodup :=
  (List.nodup_finRange _).map fun _ _ h => BitVec.ofFin.inj h

theorem length_allBitVecs (n : Nat) : (allBitVecs n).length = 2 ^ n := by
  rw [allBitVecs, List.length_map, List.length_finRange]

/-- Every command with every operand: those without one, the three with a byte, and CKSUM. -/
def allCommands : List Instr :=
  [Instr.tbuild, Instr.crcinit, Instr.crcfin, Instr.stat] ++ (allBitVecs 8).map Instr.tread ++
    (allBitVecs 8).map Instr.refl8 ++ (allBitVecs 8).map Instr.crcupd ++ (allBitVecs 16).map Instr.cksum

theorem mem_allCommands (i : Instr) : i ∈ allCommands := by
  cases i <;> simp [allCommands, mem_allBitVecs]

theorem length_allCommands : allCommands.length = 66308 := by
  simp only [allCommands, List.length_append, List.length_map, length_allBitVecs, List.length_cons,
    List.length_nil]
  norm_num

/-- Commands of different constructors differ, and so do those of one with different operands. -/
theorem nodup_allCommands : allCommands.Nodup := by
  have bytes {mk : Byte → Instr} (h : Function.Injective mk) : ((allBitVecs 8).map mk).Nodup :=
    (nodup_allBitVecs 8).map h
  have treads := bytes fun _ _ h => Instr.tread.inj h
  have refl8s := bytes fun _ _ h => Instr.refl8.inj h
  have crcupds := bytes fun _ _ h => Instr.crcupd.inj h
  have cksums : ((allBitVecs 16).map Instr.cksum).Nodup := (nodup_allBitVecs 16).map fun _ _ h => Instr.cksum.inj h
  simp only [allCommands, List.nodup_append, List.mem_append, List.mem_map, treads, refl8s, crcupds, cksums]
  grind

theorem encode_injective : Function.Injective encode := fun _ _ h =>
  Except.ok.inj ((decode_eq_ok_iff_encode_eq.2 rfl).symm.trans (decode_eq_ok_iff_encode_eq.2 h.symm))

/-! ### The obligations -/

/-- Settles O1: the decoder run on each of the words. -/
theorem encodingVectorsDecode : Obligations.EncodingVectorsDecode :=
  ⟨by decide, by decide, by decide, by decide, by decide, by decide, by decide, by decide, by decide, by decide,
    by decide, decode_ne_ok_of_toOption (by decide), decode_ne_ok_of_toOption (by decide),
    decode_ne_ok_of_toOption (by decide), decode_ne_ok_of_toOption (by decide),
    decode_ne_ok_of_toOption (by decide), decode_ne_ok_of_toOption (by decide),
    decode_ne_ok_of_toOption (by decide), decode_ne_ok_of_toOption (by decide),
    decode_ne_ok_of_toOption (by decide), decode_ne_ok_of_toOption (by decide)⟩

/-- Settles O4: the legal words by format, and every opcode has one format or none. -/
theorem illegalWordsAreTheFiveClasses : Obligations.IllegalWordsAreTheFiveClasses := by
  intro w
  have disjoint := opcode_formats_disjoint (opcField w)
  rw [← not_exists, exists_decode_eq_ok_iff, ← or_assoc (a := opcField w = 0x00), opcode_undefined_iff,
    ← and_assoc (a := 1 ≤ (opcField w).toNat), opcode_defined_iff]
  generalize (opcField w ∈ [0x01#8, 0x04#8, 0x06#8, 0x08#8]) = formatZ at disjoint ⊢
  generalize (opcField w ∈ [0x02#8, 0x03#8, 0x05#8]) = formatB at disjoint ⊢
  generalize (opcField w = 0x07) = formatH at disjoint ⊢
  grind

/-- Settles O5: the list of all commands, encoded. -/
theorem legalWordsNumber66308 : Obligations.LegalWordsNumber66308 := by
  refine ⟨allCommands.map encode, nodup_allCommands.map encode_injective, ?_, fun w => ?_⟩
  · rw [List.length_map, length_allCommands]
  · simp only [List.mem_map, mem_allCommands, true_and, decode_eq_ok_iff_encode_eq]

end Sys2Proof
end

section
/-! PROOF. The whole table and the builder split into bit-steps (41_table_builder.md R73, R74). -/

namespace Sys2Proof.Machine

/-! ### The XOR and the sum of all entries (R74) -/

/-- `op` over `f` of the `2^k` naturals from `lo` on, taken by halves, so that evaluating it nests `k` deep. -/
def foldHalves {α : Type} (op : α → α → α) (f : Nat → α) : Nat → Nat → α
  | 0, lo => f lo
  | k + 1, lo => op (foldHalves op f k lo) (foldHalves op f k (lo + 2 ^ k))

theorem foldl_range'_eq_foldHalves {α : Type} (op : α → α → α) [Std.Associative op] (f : Nat → α)
    (k lo : Nat) (a : α) : ((List.range' lo (2 ^ k)).map f).foldl op a = op a (foldHalves op f k lo) := by
  induction k generalizing lo a with
  | zero => rfl
  | succ k ih =>
    have halves : List.range' lo (2 ^ (k + 1)) = List.range' lo (2 ^ k) ++ List.range' (lo + 2 ^ k) (2 ^ k) := by
      rw [List.range'_append_1, Nat.pow_succ, Nat.mul_two]
    rw [halves, List.map_append, List.foldl_append, ih, ih, Std.Associative.assoc (op := op), foldHalves]

theorem foldl_range_256 {α : Type} (op : α → α → α) [Std.Associative op] (f : Nat → α) (a : α) :
    ((List.range 256).map f).foldl op a = op a (foldHalves op f 8 0) := by
  rw [List.range_eq_range']
  exact foldl_range'_eq_foldHalves op f 8 0 a

/-- Settles O15: the entries are computed and combined by halves. -/
theorem wholeTableChecks : Obligations.WholeTableChecks := by
  refine ⟨?_, ?_, by decide, by decide, by decide, by decide⟩
  · rw [foldl_range_256]
    decide
  · rw [List.sum_eq_foldl, foldl_range_256]
    decide

/-! ### The builder between its bit-steps (R73) -/

variable {t : Table} {v : Bool} {i k n : Nat}

theorem bsteps_succ (n : Nat) (p : Word × Word) : bsteps (n + 1) p = bstep (bsteps n p) := by
  induction n generalizing p with
  | zero => rfl
  | succ n ih => exact ih (bstep p)

/-- A table whose first `i` entries are built and the others those of `t`. -/
def partTable (t : Table) (i : Nat) : Table :=
  tableOfFn fun j => if j.toNat < i then tentry j else tableGet t j

theorem partTable_zero (t : Table) : partTable t 0 = t :=
  table_ext fun j => by simp [partTable]

theorem partTable_all (t : Table) : partTable t 256 = builtTable :=
  table_ext fun j => by simp [partTable, j.isLt]

theorem tableSet_partTable (t : Table) (hi : i < 256) :
    tableSet (partTable t i) (BitVec.ofNat 8 i) (tentry (BitVec.ofNat 8 i)) = partTable t (i + 1) := by
  apply table_ext
  intro j
  have hj : j = BitVec.ofNat 8 i ↔ j.toNat = i := by
    rw [BitVec.toNat_eq, BitVec.toNat_ofNat, Nat.mod_eq_of_lt hi]
  rw [tableGet_tableSet, partTable, partTable, tableGet_tableOfFn, tableGet_tableOfFn]
  obtain h | h | h := Nat.lt_trichotomy j.toNat i
  · simp [hj, h.ne, h, Nat.lt_succ_of_lt h]
  · simp [hj.2 h, Nat.mod_eq_of_lt hi]
  · simp [hj, h.ne', Nat.not_lt.2 h.le, Nat.not_lt.2 (Nat.succ_le_of_lt h)]

/-- The builder that started on `t` and `v`, after `i` entries and `k` bit-steps of the next one. -/
def builderAt (t : Table) (v : Bool) (i k : Nat) : Builder where
  table := partTable t i
  tvalid := v
  entryIndex := BitVec.ofNat 8 i
  bitCount := BitVec.ofNat 3 k
  acc := (bsteps k (builderSeed (BitVec.ofNat 8 i))).1
  work := (bsteps k (builderSeed (BitVec.ofNat 8 i))).2

theorem builderStart_eq_builderAt (t : Table) (v : Bool) : builderStart t v = builderAt t v 0 0 := by
  rw [builderAt, partTable_zero]
  rfl

/-- A bit-step inside an entry. -/
theorem builderStep_builderAt (hk : k < 7) : builderStep (builderAt t v i k) = builderAt t v i (k + 1) := by
  have count : BitVec.ofNat 3 k ≠ 7 := by
    rw [Ne, BitVec.toNat_eq, BitVec.toNat_ofNat, Nat.mod_eq_of_lt (by omega)]
    exact hk.ne
  simp only [builderStep, builderAt, count, if_false, bsteps_succ, BitVec.ofNat_add]
  rfl

/-- What the eighth bit-step of an entry stores. -/
theorem tableSet_builderAt_seven (t : Table) (v : Bool) (hi : i < 256) :
    tableSet (builderAt t v i 7).table (builderAt t v i 7).entryIndex
        (bstep ((builderAt t v i 7).acc, (builderAt t v i 7).work)).1 =
      partTable t (i + 1) := by
  rw [← tableSet_partTable t hi, tentry, bsteps_succ]
  rfl

/-- The last bit-step of an entry but the last: the entry is stored and the next is seeded. -/
theorem builderStep_builderAt_seven (hi : i < 255) :
    builderStep (builderAt t v i 7) = builderAt t v (i + 1) 0 := by
  have index : (builderAt t v i 7).entryIndex ≠ 255 := by
    rw [builderAt, Ne, BitVec.toNat_eq, BitVec.toNat_ofNat, Nat.mod_eq_of_lt (by omega)]
    exact hi.ne
  have count : (builderAt t v i 7).bitCount = 7 := rfl
  have next : (builderAt t v i 7).entryIndex + 1 = BitVec.ofNat 8 (i + 1) := (BitVec.ofNat_add ..).symm
  simp only [builderStep, count, index, if_true, if_false, next,
    tableSet_builderAt_seven t v (Nat.lt_succ_of_lt hi)]
  rfl

/-- The last bit-step of all. -/
theorem builderStep_builderAt_last (t : Table) (v : Bool) :
    (builderStep (builderAt t v 255 7)).table = builtTable ∧
      (builderStep (builderAt t v 255 7)).tvalid = true := by
  have stored := tableSet_builderAt_seven (i := 255) t v (by decide)
  rw [partTable_all] at stored
  exact ⟨stored, rfl⟩

theorem builderSteps_succ (n : Nat) (b : Builder) : builderSteps (n + 1) b = builderStep (builderSteps n b) := by
  induction n generalizing b with
  | zero => rfl
  | succ n ih => exact ih (builderStep b)

/-- Before the last bit-step the builder has done `n / 8` entries and `n % 8` bit-steps. -/
theorem builderSteps_eq_builderAt (hn : n < 2048) :
    builderSteps n (builderStart t v) = builderAt t v (n / 8) (n % 8) := by
  induction n with
  | zero => exact builderStart_eq_builderAt t v
  | succ n ih =>
    rw [builderSteps_succ, ih (by omega)]
    obtain hk | hk : n % 8 < 7 ∨ n % 8 = 7 := by omega
    · rw [builderStep_builderAt hk, show (n + 1) / 8 = n / 8 by omega, show (n + 1) % 8 = n % 8 + 1 by omega]
    · rw [hk, builderStep_builderAt_seven (by omega), show (n + 1) / 8 = n / 8 + 1 by omega,
        show (n + 1) % 8 = 0 by omega]

/-- Settles O19: the builder is followed entry by entry up to its last bit-step, which stores the last entry and
sets TVALID. -/
theorem splitBuilderBuildsTheSameTable : Obligations.SplitBuilderBuildsTheSameTable := by
  intro t v
  have last : builderSteps 2048 (builderStart t v) = builderStep (builderAt t v 255 7) := by
    rw [builderSteps_succ, builderSteps_eq_builderAt (by decide)]
  obtain ⟨htable, htvalid⟩ := builderStep_builderAt_last t v
  rw [last]
  exact ⟨htable, htvalid, fun n hn => by rw [builderSteps_eq_builderAt hn]; rfl⟩

end Sys2Proof.Machine
end

section
/-! PROOF. A supplied buffer is read back byte by byte (20_memory.md R35, R60). -/

namespace Sys2Proof.Machine

/-- The memory made of some bytes from `p` on holds the `k`-th of them at `p + k`, and none after the last. -/
theorem Memory.read_ofBytes (p k : Nat) (bytes : List Byte) :
    Memory.read (Memory.ofBytes p bytes) (p + k) = bytes[k]?.getD Memory.unlisted := by
  induction bytes generalizing p k with
  | nil => rfl
  | cons b bs ih =>
    rw [Memory.ofBytes, Memory.read_write (Memory.ofBytes_wf (p + 1) bs)]
    cases k with
    | zero => simp
    | succ k =>
      rw [if_neg (by omega), show p + (k + 1) = p + 1 + k by omega, ih, List.getElem?_cons_succ]

theorem bufRead_supplyBuffer (p : Nat) (bytes : List Byte) (s : State) :
    bufRead p (supplyBuffer bytes s) = bytes[p]? := by
  obtain hlt | hge := Nat.lt_or_ge p bytes.length
  · have read := Memory.read_ofBytes 0 p bytes
    rw [Nat.zero_add, List.getElem?_eq_getElem hlt] at read
    rw [bufRead_of_lt hlt, supplyBuffer_buf, read, List.getElem?_eq_getElem hlt, Option.getD_some]
  · rw [bufRead_of_ge hge, List.getElem?_eq_none hge]

/-- Settles O49: the step on a supplied buffer is `supplyBuffer`, whose memory is made of the bytes. -/
theorem suppliedBufferIsRead : Obligations.SuppliedBufferIsRead :=
  fun _ bytes _ hin => ⟨_, step_of_supplyBuffer hin, rfl, fun p => bufRead_supplyBuffer p bytes _,
    ⟨rfl, rfl, rfl, rfl⟩, rfl, rfl⟩

end Sys2Proof.Machine
end

section
/-! PROOF. The assembler (30_encoding.md R58, R59): which operands fit and the word they give, the other
spellings, and CRCSTR against CKSUM. -/

namespace Sys2Proof.Machine

variable {c : SourceCommand} {i : Instr} {o : SourceOperand} {s : State}

/-! ### Operands that fit -/

theorem lt_of_printableAscii {a : Char} (h : printableAscii a = true) : a.toNat < 256 := by
  rw [printableAscii, Bool.and_eq_true, decide_eq_true_iff, decide_eq_true_iff] at h
  omega

theorem fitsB_number_iff {n : Int} : (SourceOperand.number n).fitsB = true ↔ 0 ≤ n ∧ n ≤ 255 := by
  rw [SourceOperand.fitsB, Bool.and_eq_true, decide_eq_true_iff, decide_eq_true_iff]

theorem fitsH_number_iff {n : Int} : (SourceOperand.number n).fitsH = true ↔ 0 ≤ n ∧ n ≤ 65535 := by
  rw [SourceOperand.fitsH, Bool.and_eq_true, decide_eq_true_iff, decide_eq_true_iff]

theorem operandValue_lt_of_fitsB (h : o.fitsB = true) : operandValue o < 256 := by
  cases o with
  | number n =>
    have := fitsB_number_iff.1 h
    rw [operandValue]
    omega
  | quoted a => exact lt_of_printableAscii h

theorem operandValue_lt_of_fitsH (h : o.fitsH = true) : operandValue o < 65536 := by
  cases o with
  | number n =>
    have := fitsH_number_iff.1 h
    rw [operandValue]
    omega
  | quoted a => cases h

/-! ### Lines of one command (R58) -/

theorem setWidth_ofNat_of_lt {n v m : Nat} (h : n < 2 ^ v) : (BitVec.ofNat v n).setWidth m = BitVec.ofNat m n := by
  apply BitVec.eq_of_toNat_eq
  rw [BitVec.toNat_setWidth, BitVec.toNat_ofNat, BitVec.toNat_ofNat, Nat.mod_eq_of_lt h]

/-- A line that stands for one command assembles to its word, or is an error. -/
theorem assemble_eq_ite {fits : Bool} {word : CommandWord} (hexpand : expand c = [i]) (hfits : c.wellFormed = fits)
    (hword : fits = true → encode i = word) : assemble c = if fits then some [word] else none := by
  rw [assemble, hexpand, hfits]
  split
  next h => rw [List.map_singleton, hword h]
  next => rfl

theorem encode_tread (idx : Byte) : encode (.tread idx) = 0x02000000 ||| idx.setWidth 32 :=
  encode_eq_row_or_of_formatB 0x02 rfl (by decide) rfl

theorem encode_refl8 (v : Byte) : encode (.refl8 v) = 0x03000000 ||| v.setWidth 32 :=
  encode_eq_row_or_of_formatB 0x03 rfl (by decide) rfl

theorem encode_crcupd (b : Byte) : encode (.crcupd b) = 0x05000000 ||| b.setWidth 32 :=
  encode_eq_row_or_of_formatB 0x05 rfl (by decide) rfl

/-- A line of format B (R50). -/
theorem assemble_formatB {row : CommandWord} {mk : Byte → Instr} (hmk : ∀ b, encode (mk b) = row ||| b.setWidth 32)
    (hexpand : expand c = [mk (operandByte o)]) (hfits : c.wellFormed = o.fitsB) :
    assemble c = if o.fitsB then some [row ||| BitVec.ofNat 32 (operandValue o)] else none :=
  assemble_eq_ite hexpand hfits fun h => by
    rw [hmk, operandByte, setWidth_ofNat_of_lt (operandValue_lt_of_fitsB h)]

theorem assemble_tread (o : SourceOperand) :
    assemble (.tread o) = if o.fitsB then some [0x02000000 ||| BitVec.ofNat 32 (operandValue o)] else none :=
  assemble_formatB encode_tread rfl rfl

theorem assemble_refl8 (o : SourceOperand) :
    assemble (.refl8 o) = if o.fitsB then some [0x03000000 ||| BitVec.ofNat 32 (operandValue o)] else none :=
  assemble_formatB encode_refl8 rfl rfl

theorem assemble_crcupd (o : SourceOperand) :
    assemble (.crcupd o) = if o.fitsB then some [0x05000000 ||| BitVec.ofNat 32 (operandValue o)] else none :=
  assemble_formatB encode_crcupd rfl rfl

/-- The line of format H (R51). -/
theorem assemble_cksum (o : SourceOperand) :
    assemble (.cksum o) = if o.fitsH then some [0x07000000 ||| BitVec.ofNat 32 (operandValue o)] else none :=
  assemble_eq_ite rfl rfl fun h => by
    rw [encode_cksum, operandWord, setWidth_ofNat_of_lt (operandValue_lt_of_fitsH h)]

/-! ### CRCSTR (R59) -/

/-- The bytes that the characters of a string stand for. -/
def stringBytes (str : List Char) : List Byte := str.map fun a => BitVec.ofNat 8 a.toNat

theorem expand_crcstr (str : List Char) :
    expand (.crcstr str) = .crcinit :: (stringBytes str).map .crcupd ++ [.crcfin] := by
  rw [expand, stringBytes, List.map_map]
  rfl

theorem assemble_crcstr {str : List Char} (h : ∀ a ∈ str, printableAscii a = true) :
    assemble (.crcstr str) =
      some (0x04000000 :: str.map (fun a => 0x05000000 ||| BitVec.ofNat 32 a.toNat) ++ [0x06000000]) := by
  have wellFormed : (SourceCommand.crcstr str).wellFormed = true := List.all_eq_true.2 h
  have first : encode .crcinit = 0x04000000 := by decide
  have last : encode .crcfin = 0x06000000 := by decide
  have updates : (stringBytes str).map (fun b => encode (.crcupd b)) =
      str.map fun a => 0x05000000 ||| BitVec.ofNat 32 a.toNat := by
    rw [stringBytes, List.map_map]
    refine List.map_congr_left fun a ha => ?_
    rw [Function.comp, encode_crcupd, setWidth_ofNat_of_lt (lt_of_printableAscii (h a ha))]
  rw [assemble, if_pos wellFormed, expand_crcstr, List.map_append, List.map_cons, List.map_map, List.map_singleton,
    first, last, ← updates]
  rfl

/-- CRCSTR on a built table, against CKSUM on a buffer that holds the string (R84). -/
theorem execAll_crcstr {str : List Char} (hlength : str.length ≤ 65535) (hbuilt : s.tvalid = true)
    (hfits : str.length ≤ s.bufSize) (hbuf : bufPrefix str.length s = stringBytes str) :
    ∃ t u, execAll (expand (.crcstr str)) s = .next t ∧
      exec (.cksum (BitVec.ofNat 16 str.length)) s = .next u ∧ lastResponse t = lastResponse u := by
  have length : (BitVec.ofNat 16 str.length).toNat = str.length :=
    Nat.mod_eq_of_lt (Nat.lt_succ_of_le hlength)
  obtain ⟨hexec, hanswered, -⟩ := completes_cksum (length.trans_le hfits) (.inr hbuilt)
  obtain ⟨t, hrun, hlast, -⟩ := execAll_invocation (stringBytes str) hbuilt
  have sum : bufSum str.length s = (stringBytes str).foldl (upd s.table) crcStart := by rw [bufSum, hbuf]
  refine ⟨t, _, (congrArg (execAll · s) (expand_crcstr str)).trans hrun, hexec, ?_⟩
  rw [hlast, hanswered.lastResponse, length, sum]

/-! ### The obligations -/

/-- Settles O51: each mnemonic's line, with a number and with a quoted character. -/
theorem operandsMustFit : Obligations.OperandsMustFit :=
  ⟨fun n => (assemble_tread (.number n)).trans (if_congr fitsB_number_iff rfl rfl),
    fun n => (assemble_refl8 (.number n)).trans (if_congr fitsB_number_iff rfl rfl),
    fun n => (assemble_crcupd (.number n)).trans (if_congr fitsB_number_iff rfl rfl),
    fun n => (assemble_cksum (.number n)).trans (if_congr fitsH_number_iff rfl rfl),
    fun a => assemble_tread (.quoted a), fun a => assemble_refl8 (.quoted a), fun a => assemble_crcupd (.quoted a),
    fun a => assemble_cksum (.quoted a)⟩

/-- Settles O52: the other spellings stand for the same commands; CRCSTR is the sequence of R84 on the string's
bytes. -/
theorem aliasesAndCrcstr : Obligations.AliasesAndCrcstr :=
  ⟨rfl, fun _ => rfl, fun _ => rfl, fun _ => assemble_crcstr, fun _ _ => execAll_crcstr⟩

end Sys2Proof.Machine
end
